-- ==== Sys2Proof/Word.lean ====
section
/-! DEFINITION. The value types every other file uses: bytes, fields, the instruction word and text
(00_scope.md R10, R11). Plain types only: all bit logic is in Decode.lean. -/

namespace Sys2Proof

/-- `Byte` (R11): an unsigned 8-bit value. -/
abbrev Byte := BitVec 8

/-- The 16-bit instruction word `iw` of R10: a naming convenience for match and mask values. -/
abbrev InstrWord := BitVec 16

/-- `String` as R11 has it: "a finite sequence of characters; `++` joins strings". -/
abbrev Text := List Char

end Sys2Proof
end

