-- ==== Sys2Proof/Syntax.lean ====
section
/-! DEFINITION. The document's data model (10_state.md R21 to R30) and the instruction type: one
constructor per row of spec/opcode_table.json. -/

namespace Sys2Proof

/-- `OpCode` (R21): a closed enumeration with one member. -/
inductive OpCode where
  | mov
  deriving DecidableEq, Repr

/-- `Direction` (R22): whether the REG field names the destination or the source. -/
inductive Direction where
  | registerIsDestination
  | registerIsSource
  deriving DecidableEq, Repr

/-- `OperandSize` (R23): which of the two register tables is consulted. -/
inductive OperandSize where
  | word
  | byte
  deriving DecidableEq, Repr

/-- `Register` (R27): the sixteen names, 8-bit set first. Names only: no contents exist (R7, R157), and
there is no "unresolved" member (R126; log 20). -/
inductive Register where
  | al | cl | dl | bl | ah | ch | dh | bh
  | ax | cx | dx | bx | sp | bp | si | di
  deriving DecidableEq, Repr

/-- `InstructionRecord` (R28): the five decoded fields of one instruction. -/
structure InstructionRecord where
  opcode : OpCode
  direction : Direction
  size : OperandSize
  /-- The register resolved from the REG field. -/
  reg : Register
  /-- The register resolved from the R/M field. -/
  rm : Register
  deriving DecidableEq, Repr

/-- `DecodeError` (R30, R103): exactly two members, each carrying the whole offending byte (C4, D4, D5;
log 19). -/
inductive DecodeError where
  /-- R171: the top six bits of `byte0` are not `100010`. -/
  | unrecognizedOpcode (byte0 : Byte)
  /-- R172: the opcode was recognised and the top two bits of `byte1` are not `11`. -/
  | unsupportedAddressingMode (byte1 : Byte)
  deriving DecidableEq, Repr

/-- `Result T E` (R11). -/
inductive Result (α ε : Type) where
  | ok (v : α)
  | err (e : ε)
  deriving DecidableEq, Repr

/-- What the block puts out for a pair it accepts: the record and the rendered line (R36: the `rec_*` and
`text` outputs). DESIGN CHOICE, log 7: one result keeps the two together. -/
structure BlockOutput where
  record : InstructionRecord
  text : Text
  deriving DecidableEq, Repr

/-- The instructions: the four rows of spec/opcode_table.json, which are the four forms of MOV selected by
the D and W bits (R70, R151 to R154). The operands are the registers of the REG and R/M fields, already
resolved to names: "No numeric representation is exposed outside the Register Resolver" (R27; log 13). -/
inductive Instr where
  /-- RR_D0_W0, `10001000 11rrrmmm` (R151). -/
  | movRegIsSourceByte (reg rm : Register)
  /-- RR_D0_W1, `10001001 11rrrmmm` (R152). -/
  | movRegIsSourceWord (reg rm : Register)
  /-- RR_D1_W0, `10001010 11rrrmmm` (R153). -/
  | movRegIsDestinationByte (reg rm : Register)
  /-- RR_D1_W1, `10001011 11rrrmmm` (R154). -/
  | movRegIsDestinationWord (reg rm : Register)
  deriving DecidableEq, Repr

/-- The record a form stands for (R151 to R154): its direction and size are the form's. -/
def Instr.toRecord (i : Instr) : InstructionRecord :=
  match i with
  | .movRegIsSourceByte reg rm => ⟨.mov, .registerIsSource, .byte, reg, rm⟩
  | .movRegIsSourceWord reg rm => ⟨.mov, .registerIsSource, .word, reg, rm⟩
  | .movRegIsDestinationByte reg rm => ⟨.mov, .registerIsDestination, .byte, reg, rm⟩
  | .movRegIsDestinationWord reg rm => ⟨.mov, .registerIsDestination, .word, reg, rm⟩

end Sys2Proof
end

