-- ==== Sys2Proof/WellFormed.lean ====
section
/-! DEFINITION. What is well-formed: registers against the table column of an operand size (10_state.md
R29), the specification of a bit field (40_bitfield_extractor.md R92) and the length of a stream
(20_memory.md R45). -/

namespace Sys2Proof

/-- Whether a register belongs to the table column of a size: the two sets of R29. -/
def Register.inColumn (r : Register) (size : OperandSize) : Bool :=
  match size with
  | .byte => [.al, .cl, .dl, .bl, .ah, .ch, .dh, .bh].contains r
  | .word => [.ax, .cx, .dx, .bx, .sp, .bp, .si, .di].contains r

/-- A well-formed record (R29): both registers belong to the table column of its size. -/
def InstructionRecord.wellFormed (r : InstructionRecord) : Bool :=
  r.reg.inColumn r.size && r.rm.inColumn r.size

/-- A well-formed instruction: both operands belong to the column of the form's size (R29, R151 to R154). -/
def Instr.wellFormed (i : Instr) : Bool := i.toRecord.wellFormed

/-- An in-range bit-field specification: "0 ≤ start, start+width ≤ 8" (R90, R92). -/
def extractInRange (start width : Nat) : Bool := start + width ≤ 8

/-- A stream the sequencer gives a meaning: an even number of bytes (R45). -/
def streamWellFormed (stream : List Byte) : Bool := stream.length % 2 = 0

end Sys2Proof
end

