-- ==== Sys2Proof/Decode.lean ====
section
/-! DEFINITION. From two bytes to a record and an instruction, or a decode error by name: the Bit-Field
Extractor (R90 to R94), the Field Decoders (R100 to R104), the Register Resolver (R120, R121), the decode
pipeline (R150), and after it the encoder, from the same tables (R61, R62, R67, R80). -/

namespace Sys2Proof

/-- Applies a function to the value of a result and passes an error through unchanged (R156). -/
def Result.map {α β ε : Type} (f : α → β) (r : Result α ε) : Result β ε :=
  match r with
  | .ok v => .ok (f v)
  | .err e => .err e

/-! ## The Bit-Field Extractor -/

/-- The bits of `Extract(b, start, width)` (R91): a logical right shift by `8 - start - width` and a cut
to the low `width` bits. The single home of bit logic (R94). It has a meaning only in range; `extract`
is the checked form. -/
def extractBits (b : Byte) (start width : Nat) : BitVec width :=
  (b >>> (8 - start - width)).setWidth width

/-- `Extract(b, start, width)` as a general function (R90 to R92): the unsigned value of an in-range
specification; an out-of-range one is refused, never given a value (R92, D17; log 11). -/
def extract (b : Byte) (start width : Nat) : Option Nat :=
  if extractInRange start width then some (extractBits b start width).toNat else none

/-- The OPC instance (R93): MSB-0 bits 0 to 5 of `byte0`. -/
def fieldOpc (byte0 : Byte) : BitVec 6 := extractBits byte0 0 6

/-- The D instance (R93): MSB-0 bit 6 of `byte0` (C1: not bit 1). -/
def fieldD (byte0 : Byte) : BitVec 1 := extractBits byte0 6 1

/-- The W instance (R93): MSB-0 bit 7 of `byte0`. -/
def fieldW (byte0 : Byte) : BitVec 1 := extractBits byte0 7 1

/-- The MOD instance (R93): MSB-0 bits 0 to 1 of `byte1`. -/
def fieldMod (byte1 : Byte) : BitVec 2 := extractBits byte1 0 2

/-- The REG instance (R93): MSB-0 bits 2 to 4 of `byte1`. -/
def fieldReg (byte1 : Byte) : BitVec 3 := extractBits byte1 2 3

/-- The RM instance (R93): MSB-0 bits 5 to 7 of `byte1`. -/
def fieldRm (byte1 : Byte) : BitVec 3 := extractBits byte1 5 3

/-! ## The Field Decoders -/

/-- `decode_opcode` (R100): succeeds only for the pattern `100010`; the error carries the whole byte. -/
def decodeOpcode (byte0 : Byte) : Result OpCode DecodeError :=
  if fieldOpc byte0 = 0b100010#6 then .ok .mov else .err (.unrecognizedOpcode byte0)

/-- `decode_direction` (R101): total. -/
def decodeDirection (byte0 : Byte) : Direction :=
  if fieldD byte0 = 1#1 then .registerIsDestination else .registerIsSource

/-- `decode_operand_size` (R102): total. -/
def decodeOperandSize (byte0 : Byte) : OperandSize :=
  if fieldW byte0 = 1#1 then .word else .byte

/-- `check_mode` (R104, C2): succeeds only when the addressing-mode bits are `11`. -/
def checkMode (byte1 : Byte) : Result Unit DecodeError :=
  if fieldMod byte1 = 0b11#2 then .ok () else .err (.unsupportedAddressingMode byte1)

/-! ## The Register Resolver -/

/-- `REG_TABLE` (R121, R122): two tables of eight entries, copied from the spec, not computed. -/
def regTable (size : OperandSize) : Vector Register 8 :=
  match size with
  | .byte => #v[.al, .cl, .dl, .bl, .ah, .ch, .dh, .bh]
  | .word => #v[.ax, .cx, .dx, .bx, .sp, .bp, .si, .di]

/-- `resolve_register` (R120, R121, R125): indexed directly by the 3-bit field; total. -/
def resolveRegister (field : BitVec 3) (size : OperandSize) : Register :=
  (regTable size)[field.toNat]'field.isLt

/-! ## The decode pipeline -/

/-- `decode` (R150): the opcode check, then the addressing-mode check, then the record (R130). The order
of the two checks is the priority of the two errors (R174). -/
def decodeRecord (byte0 byte1 : Byte) : Result InstructionRecord DecodeError :=
  match decodeOpcode byte0 with
  | .err e => .err e
  | .ok opcode =>
    match checkMode byte1 with
    | .err e => .err e
    | .ok () =>
      .ok { opcode := opcode
            direction := decodeDirection byte0
            size := decodeOperandSize byte0
            reg := resolveRegister (fieldReg byte1) (decodeOperandSize byte0)
            rm := resolveRegister (fieldRm byte1) (decodeOperandSize byte0) }

/-- The form a record belongs to: its direction and size select one of the four rows (R70). -/
def Instr.ofRecord (r : InstructionRecord) : Instr :=
  match r.opcode, r.direction, r.size with
  | .mov, .registerIsSource, .byte => .movRegIsSourceByte r.reg r.rm
  | .mov, .registerIsSource, .word => .movRegIsSourceWord r.reg r.rm
  | .mov, .registerIsDestination, .byte => .movRegIsDestinationByte r.reg r.rm
  | .mov, .registerIsDestination, .word => .movRegIsDestinationWord r.reg r.rm

/-- The instruction two bytes stand for, or the error that rejects them by name. Total (R74, R207). -/
def decode (byte0 byte1 : Byte) : Result Instr DecodeError :=
  (decodeRecord byte0 byte1).map Instr.ofRecord

/-! ## The encoder -/

/-- The 3-bit field that names a register in its column (R67). -/
def encodeRegister (r : Register) : BitVec 3 :=
  match r with
  | .al | .ax => 0b000#3
  | .cl | .cx => 0b001#3
  | .dl | .dx => 0b010#3
  | .bl | .bx => 0b011#3
  | .ah | .sp => 0b100#3
  | .ch | .bp => 0b101#3
  | .dh | .si => 0b110#3
  | .bh | .di => 0b111#3

/-- `byte1` of every form (R62, R80): `11rrrmmm`. -/
def encodeByte1 (reg rm : Register) : Byte :=
  0b11#2 ++ encodeRegister reg ++ encodeRegister rm

/-- The two bytes of a well-formed instruction, first byte first (R70, R80). -/
def encode (i : Instr) : Byte × Byte :=
  match i with
  | .movRegIsSourceByte reg rm => (0b10001000#8, encodeByte1 reg rm)
  | .movRegIsSourceWord reg rm => (0b10001001#8, encodeByte1 reg rm)
  | .movRegIsDestinationByte reg rm => (0b10001010#8, encodeByte1 reg rm)
  | .movRegIsDestinationWord reg rm => (0b10001011#8, encodeByte1 reg rm)

/-! ## Instruction words -/

/-- `iw = byte0 ∥ byte1` (R10, R42). -/
def instrWord (byte0 byte1 : Byte) : InstrWord := byte0 ++ byte1

/-- The two bytes of an instruction word in stream order: the high half comes first (R10, R40). -/
def wordBytes (iw : InstrWord) : Byte × Byte :=
  (iw.extractLsb' 8 8, iw.extractLsb' 0 8)

/-- The instruction the decoder reads from an instruction whose bits are `w`, numbered as
spec/opcode_table.json numbers them: one 16-bit word `iw` with `byte0` in bits 15 to 8. Bits at `nbits`
and above count as 0. DEDUCED, log 12: bits beyond the sixteen of an instruction (R60) make no
instruction. -/
def decodeTableWord (nbits w : Nat) : Option Instr :=
  let v := w % 2 ^ nbits
  if v < 2 ^ 16 then
    match decode (wordBytes (BitVec.ofNat 16 v)).1 (wordBytes (BitVec.ofNat 16 v)).2 with
    | .ok i => some i
    | .err _ => none
  else none

end Sys2Proof
end

