-- ==== Sys2Proof/Machine/Operands.lean ====
section
/-! DEFINITION. The two operands of a record in printing order (43_record_and_renderer.md R135): the only
place where operand order is decided. -/

namespace Sys2Proof.Machine

/-- The operand printed first, which is the destination of the move (R76, R135). -/
def firstOperand (r : InstructionRecord) : Register :=
  match r.direction with
  | .registerIsDestination => r.reg
  | .registerIsSource => r.rm

/-- The operand printed second, which is the source of the move (R76, R135). -/
def secondOperand (r : InstructionRecord) : Register :=
  match r.direction with
  | .registerIsDestination => r.rm
  | .registerIsSource => r.reg

end Sys2Proof.Machine
end

