-- ==== Sys2Proof/Machine/Render.lean ====
section
/-! DEFINITION. The Assembly Renderer (43_record_and_renderer.md R132 to R141). -/

namespace Sys2Proof.Machine

/-- The mnemonic text of an opcode (R133). -/
def mnemonic (o : OpCode) : Text :=
  match o with
  | .mov => ['M', 'O', 'V']

/-- The name of a register, as the register table spells it (R134). -/
def name (r : Register) : Text :=
  match r with
  | .al => ['A', 'L'] | .cl => ['C', 'L'] | .dl => ['D', 'L'] | .bl => ['B', 'L']
  | .ah => ['A', 'H'] | .ch => ['C', 'H'] | .dh => ['D', 'H'] | .bh => ['B', 'H']
  | .ax => ['A', 'X'] | .cx => ['C', 'X'] | .dx => ['D', 'X'] | .bx => ['B', 'X']
  | .sp => ['S', 'P'] | .bp => ['B', 'P'] | .si => ['S', 'I'] | .di => ['D', 'I']

/-- `render` (R132): mnemonic, space, first operand, space, second operand; no comma, no line end (R136,
R141). It never reads the size, so it is defined on ill-formed records too (R140; log 13). -/
def render (r : InstructionRecord) : Text :=
  mnemonic r.opcode ++ [' '] ++ name (firstOperand r) ++ [' '] ++ name (secondOperand r)

end Sys2Proof.Machine
end

