-- ==== Sys2Proof/Machine/Block.lean ====
section
/-! DEFINITION. The whole block as the spec writes it: a pure function of the two input bytes (44_mov.md
R156, 10_state.md R20), "the observation a claim can be stated through" (00_scope.md R15). -/

namespace Sys2Proof.Machine

/-- What the block puts out for a record: the record and its line (R36, R132). -/
def outputOf (r : InstructionRecord) : BlockOutput := { record := r, text := render r }

/-- Everything the block puts out for a pair: record and line, or one error and nothing else (R156, R38). -/
def blockResult (byte0 byte1 : Byte) : Result BlockOutput DecodeError :=
  (decodeRecord byte0 byte1).map outputOf

/-- `decode_and_render` (R156): `decode` followed by `render`, an error passed through unchanged. -/
def decodeAndRender (byte0 byte1 : Byte) : Result Text DecodeError :=
  (decodeRecord byte0 byte1).map render

end Sys2Proof.Machine
end

