-- ==== Sys2Proof/Machine/State.lean ====
section
/-! DEFINITION. The state of the machine, its faults and refusals, and the state after reset.

The block stores nothing between decodes (10_state.md R20). What a step reads and writes is the state the
spec gives the block's environment, the sequencer: the byte stream, the offset of the next pair and the
results so far (R31, R43, R50; 95_test_vectors.md Part 3; log 1). -/

namespace Sys2Proof.Machine

/-- Why the machine stops. The two decode errors are no faults in this sense: each is the RESULT of its
pair, and the next pair is decoded after it (R175, R178; log 3). -/
inductive Fault where
  /-- Raised by `fetch` when no pair begins at the offset `pos`: every pair of the stream has been handed
  over. DESIGN CHOICE, log 4. Safe: nothing can be claimed of a step past the end of the stream. -/
  | endOfStream (pos : Nat)
  deriving DecidableEq, Repr

/-- What the model gives no meaning. -/
inductive Refusal where
  /-- Raised by no arm of `exec`: every instruction has its meaning. Safe. -/
  | notModelled (mnemonic : String)
  /-- Raised by `fetch` on a stream of odd length, before any pair of it is decoded (R45, D13; log 5).
  Safe: nothing can be claimed of such a stream. -/
  | oddStream
  /-- Raised by `fetch` at an odd offset: pairs begin at even offsets "and nowhere else" (R44).
  DESIGN CHOICE, log 6. Safe; no run from an even offset reaches it. -/
  | oddPosition
  deriving DecidableEq, Repr

/-- The state (log 1). -/
structure State where
  /-- The byte stream `s` of R43. -/
  stream : List Byte
  /-- The stream offset of the next pair (R31). -/
  pos : Nat
  /-- The results of the pairs handed over so far, in input order (R50). -/
  out : List (Result BlockOutput DecodeError)
  deriving DecidableEq, Repr

/-- After reset: nothing to reset in the block (R39, R200), `pos` at 0 (R31, R39), no results yet
(95_test_vectors.md Part 3). DESIGN CHOICE, log 2: no stream has been handed over. -/
def State.reset : State := { stream := [], pos := 0, out := [] }

end Sys2Proof.Machine
end

