-- ==== Sys2Proof/Machine/Ops.lean ====
section
/-! DEFINITION. The named operations on the state: reading a pair of the stream (20_memory.md R43 to R45),
delivering a result (R50), and delivering a decode error, which is this hardware's one way of taking an
exception (60_exceptions.md R175, R178). There is no return from one: nothing is saved and nothing is
restored (R176). -/

namespace Sys2Proof.Machine

/-- The two bytes at stream offsets `p` and `p + 1`, first byte first (R40, R43), if both exist. -/
def bytesAt (stream : List Byte) (p : Nat) : Option (Byte × Byte) :=
  match stream[p]?, stream[p + 1]? with
  | some byte0, some byte1 => some (byte0, byte1)
  | _, _ => none

/-- Pair number `k` of a stream: `(s[2k], s[2k+1])` (R43). -/
def pairAt (stream : List Byte) (k : Nat) : Option (Byte × Byte) := bytesAt stream (2 * k)

/-- The pair the sequencer hands over next. A stream of odd length is refused whole (R45, log 5), an odd
offset is refused (R44, log 6), and there is no pair past the end of the stream (log 4). -/
def fetch (s : State) : Host.Outcome (Byte × Byte) Fault Refusal :=
  if !streamWellFormed s.stream then .refused .oddStream
  else if s.pos % 2 = 1 then .refused .oddPosition
  else
    match bytesAt s.stream s.pos with
    | some pair => .next pair
    | none => .fault (.endOfStream s.pos)

/-- Delivers the result of the pair at `pos`: it takes the next place in the list of results (R50), and
`pos` advances "by exactly 2 after every pair, whatever the result" (R31). Nothing else changes. -/
def deliver (r : Result BlockOutput DecodeError) (s : State) : State :=
  { s with pos := s.pos + 2, out := s.out ++ [r] }

/-- Taking an exception: the error is returned to the caller in place of the record and the text (R175),
in the position of its pair (R178). No state is saved and no handler exists (R175, R176). -/
def raiseError (e : DecodeError) (s : State) : State := deliver (.err e) s

/-- Completing an instruction: its record and its rendered line are the result of the pair (R130, R132). -/
def produce (r : InstructionRecord) (s : State) : Host.Outcome State Fault Refusal :=
  .next (deliver (.ok (outputOf r)) s)

/-- The stream with a pair placed at offset `p`, and with no byte left over at its end: bytes before `p`
are kept (missing ones are filled with zero bytes), the pair stands at `p` and `p + 1`, and what followed
is kept up to the last whole pair. DESIGN CHOICE, log 18. -/
def placePair (stream : List Byte) (p : Nat) (pair : Byte × Byte) : List Byte :=
  let before := stream.take p ++ List.replicate (p - stream.length) 0#8
  let after := stream.drop (p + 2)
  before ++ [pair.1, pair.2] ++ after.take (2 * (after.length / 2))

end Sys2Proof.Machine
end

