-- ==== Sys2Proof/Machine/Mov.lean ====
section
/-! DEFINITION. The meanings of the four forms of MOV (44_mov.md R151 to R154): the record of the form, and
the line rendered from it. A MOV is not executed: no register contents exist (R7, R157; log 16). No form
writes a flag and none fails once its encoding has matched. -/

namespace Sys2Proof.Machine

/-- MOV, register is source, byte (R151): `{MOV, RegisterIsSource, Byte, reg, rm}`, `MOV rm reg`. -/
def execMovRegIsSourceByte (reg rm : Register) (s : State) : Host.Outcome State Fault Refusal :=
  produce { opcode := .mov, direction := .registerIsSource, size := .byte, reg := reg, rm := rm } s

/-- MOV, register is source, word (R152): `{MOV, RegisterIsSource, Word, reg, rm}`, `MOV rm reg`. -/
def execMovRegIsSourceWord (reg rm : Register) (s : State) : Host.Outcome State Fault Refusal :=
  produce { opcode := .mov, direction := .registerIsSource, size := .word, reg := reg, rm := rm } s

/-- MOV, register is destination, byte (R153): `{MOV, RegisterIsDestination, Byte, reg, rm}`,
`MOV reg rm`. -/
def execMovRegIsDestinationByte (reg rm : Register) (s : State) : Host.Outcome State Fault Refusal :=
  produce { opcode := .mov, direction := .registerIsDestination, size := .byte, reg := reg, rm := rm } s

/-- MOV, register is destination, word (R154): `{MOV, RegisterIsDestination, Word, reg, rm}`,
`MOV reg rm`. -/
def execMovRegIsDestinationWord (reg rm : Register) (s : State) : Host.Outcome State Fault Refusal :=
  produce { opcode := .mov, direction := .registerIsDestination, size := .word, reg := reg, rm := rm } s

end Sys2Proof.Machine
end

