-- ==== Sys2Proof/Machine/Dispatch.lean ====
section
/-! DEFINITION. exec: one arm per constructor of Instr, each one direct call of its meaning. -/

namespace Sys2Proof.Machine

def exec (i : Instr) (s : State) : Host.Outcome State Fault Refusal :=
  match i with
  | .movRegIsSourceByte reg rm => Sys2Proof.Machine.execMovRegIsSourceByte reg rm s
  | .movRegIsSourceWord reg rm => Sys2Proof.Machine.execMovRegIsSourceWord reg rm s
  | .movRegIsDestinationByte reg rm => Sys2Proof.Machine.execMovRegIsDestinationByte reg rm s
  | .movRegIsDestinationWord reg rm => Sys2Proof.Machine.execMovRegIsDestinationWord reg rm s

end Sys2Proof.Machine
end

