-- ==== Sys2Proof/Machine/Step.lean ====
section
/-! DEFINITION. One step: one pair is handed to the block and its result is delivered (20_memory.md R43,
R46, R50). -/

namespace Sys2Proof.Machine

/-- One step of the machine. A pair that decodes runs its instruction; a pair that does not has its error
delivered in its place, and the machine goes on (R175, R178; log 3). -/
def step (s : State) : Host.Outcome State Fault Refusal :=
  match fetch s with
  | .next (byte0, byte1) =>
    match decode byte0 byte1 with
    | .ok i => exec i s
    | .err e => .next (raiseError e s)
  | .fault f => .fault f
  | .refused r => .refused r

/-- The state with the instruction word `w` (numbered as in `decodeTableWord`) as the next pair of the
stream, so that the next step runs exactly it, from any state whose `pos` is even (log 18). -/
def State.withFetchWord (s : State) (nbits w : Nat) : State :=
  { s with stream := placePair s.stream s.pos (wordBytes (BitVec.ofNat 16 (w % 2 ^ nbits))) }

end Sys2Proof.Machine
end

