-- ==== Sys2Proof/Config.lean ====
section
/-! DEFINITION. The one parameter the spec leaves open: ERROR_REPORT_TEXT (00_scope.md R8, 60_exceptions.md
R177, D18). Every other size is fixed (R8) and every constant of the block is no configuration (R35). -/

namespace Sys2Proof.Config

/-- What a sequencer writes before the offending byte in its report of an error: open, no value is known
(R177, D18). DEDUCED, log 10: a text contains `bin8(b)` exactly when it is some prefix, `bin8(b)`, some
suffix. -/
opaque reportPrefix : DecodeError → Text

/-- What a sequencer writes after the offending byte in its report of an error: open (R177, D18). -/
opaque reportSuffix : DecodeError → Text

end Sys2Proof.Config
end

