-- ==== Sys2Proof/Machine/Ports.lean ====
section
/-! DEFINITION. The block's output ports (10_state.md R36 to R38): a function of the two input bytes, with
the codes of R37. The codes exist on the wires only (R37, D9; log 17). -/

namespace Sys2Proof.Machine

/-- The output ports (R36). A port is `none` where it "carries no meaning" (R38): the model gives such a
wire no value (D7, U9; log 8). -/
structure OutputPorts where
  status : BitVec 2
  errByte : Option Byte
  recOpcode : Option (BitVec 6)
  recDirection : Option (BitVec 1)
  recSize : Option (BitVec 1)
  recReg : Option (BitVec 4)
  recRm : Option (BitVec 4)
  text : Option (BitVec 72)
  textValid : BitVec 1
  deriving DecidableEq, Repr

/-- The code of an opcode: the opcode pattern itself (R37). -/
def opcodeCode (o : OpCode) : BitVec 6 :=
  match o with
  | .mov => 0b100010#6

/-- The code of a direction: the D bit (R37). -/
def directionCode (d : Direction) : BitVec 1 :=
  match d with
  | .registerIsSource => 0#1
  | .registerIsDestination => 1#1

/-- The code of an operand size: the W bit (R37). -/
def sizeCode (z : OperandSize) : BitVec 1 :=
  match z with
  | .byte => 0#1
  | .word => 1#1

/-- The code of a register (R37). -/
def registerCode (r : Register) : BitVec 4 :=
  match r with
  | .al => 0#4 | .cl => 1#4 | .dl => 2#4 | .bl => 3#4
  | .ah => 4#4 | .ch => 5#4 | .dh => 6#4 | .bh => 7#4
  | .ax => 8#4 | .cx => 9#4 | .dx => 10#4 | .bx => 11#4
  | .sp => 12#4 | .bp => 13#4 | .si => 14#4 | .di => 15#4

/-- The status code of an error (R37, R173). -/
def errorStatus (e : DecodeError) : BitVec 2 :=
  match e with
  | .unrecognizedOpcode _ => 0b01#2
  | .unsupportedAddressingMode _ => 0b10#2

/-- The byte an error carries (R171, R172). -/
def errorByte (e : DecodeError) : Byte :=
  match e with
  | .unrecognizedOpcode byte0 => byte0
  | .unsupportedAddressingMode byte1 => byte1

/-- The 8-bit code of a character on the text port: ASCII (R137, D10; PRESUMED, log 9). -/
def charCode (c : Char) : Byte := BitVec.ofNat 8 c.toNat

/-- A line on the text port: the first character in the top byte of the nine (R36). -/
def textCode (t : Text) : BitVec 72 :=
  t.foldl (fun acc c => acc <<< 8 ||| (charCode c).setWidth 72) 0#72

/-- The ports for a result (R36 to R38). -/
def portsOf (r : Result BlockOutput DecodeError) : OutputPorts :=
  match r with
  | .ok o =>
    { status := 0b00#2, errByte := none,
      recOpcode := some (opcodeCode o.record.opcode), recDirection := some (directionCode o.record.direction),
      recSize := some (sizeCode o.record.size), recReg := some (registerCode o.record.reg),
      recRm := some (registerCode o.record.rm), text := some (textCode o.text), textValid := 1#1 }
  | .err e =>
    { status := errorStatus e, errByte := some (errorByte e),
      recOpcode := none, recDirection := none, recSize := none, recReg := none, recRm := none,
      text := none, textValid := 0#1 }

/-- The block as a circuit: output ports as a function of the two input ports (R36). -/
def blockPorts (byte0 byte1 : Byte) : OutputPorts := portsOf (blockResult byte0 byte1)

end Sys2Proof.Machine
end

