-- ==== Sys2Proof/Machine/Sequencer.lean ====
section
/-! DEFINITION. What the block's environment does with streams and results: loading a stream, the result
list and the text of a stream (20_memory.md R43, R50), and the reports of errors (60_exceptions.md R177). -/

namespace Sys2Proof.Machine

/-- A stream handed to the sequencer: `pos = 0`, `out = []` (R31; 95_test_vectors.md Part 3). -/
def State.load (stream : List Byte) : State := { State.reset with stream := stream }

/-- The observation of R50: the list of per-pair results of `decode_and_render`, errors in their places. -/
def State.results (s : State) : List (Result Text DecodeError) :=
  s.out.map (Result.map BlockOutput.text)

/-- The text lines among some results, in order. -/
def okLines (rs : List (Result Text DecodeError)) : List Text :=
  rs.filterMap fun r =>
    match r with
    | .ok t => some t
    | .err _ => none

/-- The errors among some results, in order. -/
def errors (rs : List (Result Text DecodeError)) : List DecodeError :=
  rs.filterMap fun r =>
    match r with
    | .ok _ => none
    | .err e => some e

/-- The line separator: one line feed, code 0x0A (R8, R50, D11; PRESUMED, log 15). -/
def lineSeparator : Char := '\n'

/-- The text of a stream: the `Ok` lines in list order, one line feed between consecutive lines and none
after the last (R50, D11). -/
def streamText (rs : List (Result Text DecodeError)) : Text :=
  List.intercalate [lineSeparator] (okLines rs)

/-- `bin8(b)` (R177): eight characters `0` or `1`, most significant bit first. -/
def bin8 (b : Byte) : Text :=
  (List.range 8).map fun i => if extractBits b i 1 = 1#1 then '1' else '0'

/-- `ERROR_REPORT_TEXT` (R177, D18): open but for the byte in its binary form (log 10). -/
def errorReportText (e : DecodeError) : Text :=
  Config.reportPrefix e ++ bin8 (errorByte e) ++ Config.reportSuffix e

/-- The error reports of a stream, in input order (R177, R178). -/
def State.reports (s : State) : List Text := (errors s.results).map errorReportText

end Sys2Proof.Machine
end

