-- ==== Sys2Proof/Safety.lean ====
section
/-! DEFINITION. What a safe state of a run is, in the terms the claims use. -/

namespace Sys2Proof.Machine

/-- A state in which a pair is there to be handed over: even stream (R45), even offset (R44), and both
bytes of the pair exist. -/
abbrev State.Ready (s : State) : Prop :=
  s.stream.length % 2 = 0 ∧ s.pos % 2 = 0 ∧ s.pos + 2 ≤ s.stream.length

/-- The invariant of a run: the results are exactly what the block, a pure function, gives for the pairs
before `pos`, each in its place (R20, R43, R50), and `pos` counts two bytes for each result (R31). -/
structure State.Inv (s : State) : Prop where
  pos_eq : s.pos = 2 * s.out.length
  pos_le : s.pos ≤ s.stream.length
  out_eq : ∀ k, k < s.out.length →
    ∃ byte0 byte1, pairAt s.stream k = some (byte0, byte1) ∧ s.out[k]? = some (blockResult byte0 byte1)

end Sys2Proof.Machine
end

