-- ==== Sys2Proof/Certificates/Slice0/Obligations.lean ====
section
/-! DEFINITION. The statements for the provers. `R<n>` is a numbered rule of spec/, `D<n>` a decision of
spec/92_eei_decisions.md, `log <n>` a file notes/assumptions/<n>.md. A clause that rests on a decision or
an inference of the spec's own says so. -/

open Sys2Proof Sys2Proof.Machine

/-! ## The Bit-Field Extractor -/

/-- R90: every in-range specification succeeds, the first bit of the range is the most significant bit of
the result and the last its bit of weight 1, and the result lies in 0 to 2^width - 1. -/
def Obligations.ExtractReturnsTheRangeRightAligned : Prop :=
  ∀ (b : Byte) (start width : Nat), start + width ≤ 8 →
    ∃ v, extract b start width = some v ∧ v < 2 ^ width ∧
      ∀ j, j < width → v.testBit (width - 1 - j) = b.getMsbD (start + j)

/-- The arithmetic of R91, which the spec derives from R90: shift and mask, division and remainder, and
the LSB-0 slice `b[7-start : 8-start-width]` of R10. -/
def Obligations.ExtractIsShiftAndMask : Prop :=
  ∀ (b : Byte) (start width : Nat), start + width ≤ 8 →
    extract b start width = some ((b.toNat >>> (8 - start - width)) &&& ((1 <<< width) - 1)) ∧
    extract b start width = some (b.toNat / 2 ^ (8 - start - width) % 2 ^ width) ∧
    (1 ≤ width → extract b start width =
      some ((b.toNat >>> (8 - start - width)) % 2 ^ ((7 - start) - (8 - start - width) + 1)))

/-- The corner cases of R92, which the spec derives from R91, and its refusal of an out-of-range
specification (D17; log 11). -/
def Obligations.ExtractCornersAndConcatenation : Prop :=
  (∀ b : Byte, extract b 0 8 = some b.toNat) ∧
  (∀ (b : Byte) (s : Nat), s ≤ 8 → extract b s 0 = some 0) ∧
  (∀ b : Byte, extract b 0 1 = some b.msb.toNat ∧ extract b 7 1 = some (b.toNat % 2)) ∧
  (∀ s w : Nat, s + w ≤ 8 → extract 0x00#8 s w = some 0 ∧ extract 0xFF#8 s w = some (2 ^ w - 1)) ∧
  (∀ (b : Byte) (s w1 w2 v1 v2 : Nat), s + (w1 + w2) ≤ 8 →
    extract b s w1 = some v1 → extract b (s + w1) w2 = some v2 →
    extract b s (w1 + w2) = some (v1 * 2 ^ w2 + v2)) ∧
  (∀ (b : Byte) (s w : Nat), 8 < s + w → extract b s w = none)

/-- The six instances of R93, in both forms its table gives, and the partition of the two bytes that the
spec derives from R92. -/
def Obligations.SixFieldsPartitionTheTwoBytes : Prop :=
  (∀ b : Byte,
    extract b 0 6 = some (fieldOpc b).toNat ∧ (fieldOpc b).toNat = b.toNat >>> 2 ∧
    extract b 6 1 = some (fieldD b).toNat ∧ (fieldD b).toNat = (b.toNat >>> 1) &&& 1 ∧
    extract b 7 1 = some (fieldW b).toNat ∧ (fieldW b).toNat = b.toNat &&& 1 ∧
    b.toNat = (fieldOpc b).toNat * 4 + (fieldD b).toNat * 2 + (fieldW b).toNat) ∧
  (∀ b : Byte,
    extract b 0 2 = some (fieldMod b).toNat ∧ (fieldMod b).toNat = b.toNat >>> 6 ∧
    extract b 2 3 = some (fieldReg b).toNat ∧ (fieldReg b).toNat = (b.toNat >>> 3) &&& 7 ∧
    extract b 5 3 = some (fieldRm b).toNat ∧ (fieldRm b).toNat = b.toNat &&& 7 ∧
    b.toNat = (fieldMod b).toNat * 64 + (fieldReg b).toNat * 8 + (fieldRm b).toNat)

/-! ## The Field Decoders -/

/-- R100: bits 0 to 5 are compared with `100010`; any other pattern fails, and the error carries the whole
byte (C4, D5; log 19). Exactly four bytes succeed (the spec's derivation from R70). -/
def Obligations.OpcodeDecoderAcceptsOnlyMov : Prop :=
  ∀ b : Byte,
    (extract b 0 6 = some 0b100010 → decodeOpcode b = .ok .mov) ∧
    (extract b 0 6 ≠ some 0b100010 → decodeOpcode b = .err (.unrecognizedOpcode b)) ∧
    (decodeOpcode b = .ok .mov ↔ b = 0x88#8 ∨ b = 0x89#8 ∨ b = 0x8A#8 ∨ b = 0x8B#8)

/-- R101 and R102: the two one-bit decoders, on every byte, whatever its opcode. -/
def Obligations.OneBitDecodersAreTotal : Prop :=
  ∀ b : Byte,
    (extract b 6 1 = some 1 → decodeDirection b = .registerIsDestination) ∧
    (extract b 6 1 = some 0 → decodeDirection b = .registerIsSource) ∧
    (decodeDirection b = .registerIsDestination ↔ b.getLsbD 1 = true) ∧
    (extract b 7 1 = some 1 → decodeOperandSize b = .word) ∧
    (extract b 7 1 = some 0 → decodeOperandSize b = .byte) ∧
    (decodeOperandSize b = .word ↔ b.toNat % 2 = 1)

/-- R104: the addressing-mode check. That the block checks, and the error's name and payload, are the
spec's decisions (C2, D3, D4; log 14). -/
def Obligations.ModeCheckAcceptsOnlyRegisterDirect : Prop :=
  ∀ b : Byte,
    (extract b 0 2 = some 0b11 → checkMode b = .ok ()) ∧
    (extract b 0 2 ≠ some 0b11 → checkMode b = .err (.unsupportedAddressingMode b)) ∧
    (checkMode b = .ok () ↔ 0xC0 ≤ b.toNat)

/-- R106 (the spec's derivation): the results of the byte0 decoders depend on their own bits only. -/
def Obligations.FieldDecodersReadOnlyTheirOwnBits : Prop :=
  ∀ b c : Byte,
    (b.toNat / 4 = c.toNat / 4 → (decodeOpcode b = .ok .mov ↔ decodeOpcode c = .ok .mov)) ∧
    (b.getLsbD 1 = c.getLsbD 1 → decodeDirection b = decodeDirection c) ∧
    (b.getLsbD 0 = c.getLsbD 0 → decodeOperandSize b = decodeOperandSize c) ∧
    decodeOperandSize (b ^^^ 0x02#8) = decodeOperandSize b

/-! ## The Register Resolver -/

/-- R121 and R125: the sixteen entries of the table. -/
def Obligations.ResolverReturnsTheTableEntry : Prop :=
  (resolveRegister 0#3 .byte = .al ∧ resolveRegister 1#3 .byte = .cl ∧
   resolveRegister 2#3 .byte = .dl ∧ resolveRegister 3#3 .byte = .bl ∧
   resolveRegister 4#3 .byte = .ah ∧ resolveRegister 5#3 .byte = .ch ∧
   resolveRegister 6#3 .byte = .dh ∧ resolveRegister 7#3 .byte = .bh) ∧
  (resolveRegister 0#3 .word = .ax ∧ resolveRegister 1#3 .word = .cx ∧
   resolveRegister 2#3 .word = .dx ∧ resolveRegister 3#3 .word = .bx ∧
   resolveRegister 4#3 .word = .sp ∧ resolveRegister 5#3 .word = .bp ∧
   resolveRegister 6#3 .word = .si ∧ resolveRegister 7#3 .word = .di)

/-- R127 (the spec's derivation): the table is one to one, so is the map from valid words to records, and
the port code of a register is `8 * W + field`. -/
def Obligations.ResolverIsOneToOne : Prop :=
  (∀ f f' z z', resolveRegister f z = resolveRegister f' z' → f = f' ∧ z = z') ∧
  (∀ b0 b1 c0 c1 r, decodeRecord b0 b1 = .ok r → decodeRecord c0 c1 = .ok r → b0 = c0 ∧ b1 = c1) ∧
  (∀ f z, (registerCode (resolveRegister f z)).toNat = 8 * (sizeCode z).toNat + f.toNat)

/-- R124: which registers a pair names depends on the fields and the size alone; toggling the D bit of a
pair the block accepts changes the direction and nothing else. -/
def Obligations.DirectionDoesNotLeakIntoTheResolver : Prop :=
  (∀ b0 b1 c0 c1 r q, decodeRecord b0 b1 = .ok r → decodeRecord c0 c1 = .ok q → r.size = q.size →
    ((b1.toNat >>> 3) &&& 7 = (c1.toNat >>> 3) &&& 7 → r.reg = q.reg) ∧
    (b1.toNat &&& 7 = c1.toNat &&& 7 → r.rm = q.rm)) ∧
  (∀ b0 b1 r, decodeRecord b0 b1 = .ok r →
    ∃ d, d ≠ r.direction ∧ decodeRecord (b0 ^^^ 0x02#8) b1 = .ok { r with direction := d })

/-! ## Records and lines -/

/-- R29 (its counts and its one-to-one map are the spec's derivation): what a well-formed record is; every
record the decoder produces is one; each of them comes from exactly one pair; there are 256 of them. -/
def Obligations.WordsCorrespondToWellFormedRecords : Prop :=
  (∀ r : InstructionRecord, r.wellFormed = true ↔
    ((r.size = .byte ∧ r.reg ∈ [.al, .cl, .dl, .bl, .ah, .ch, .dh, .bh] ∧
        r.rm ∈ [.al, .cl, .dl, .bl, .ah, .ch, .dh, .bh]) ∨
     (r.size = .word ∧ r.reg ∈ [.ax, .cx, .dx, .bx, .sp, .bp, .si, .di] ∧
        r.rm ∈ [.ax, .cx, .dx, .bx, .sp, .bp, .si, .di]))) ∧
  (∀ b0 b1 r, decodeRecord b0 b1 = .ok r → r.wellFormed = true) ∧
  (∀ r : InstructionRecord, r.wellFormed = true → ∃! p : Byte × Byte, decodeRecord p.1 p.2 = .ok r) ∧
  (∃ rs : List InstructionRecord, rs.Nodup ∧ rs.length = 256 ∧ ∀ r, r ∈ rs ↔ r.wellFormed = true)

/-- R132 and R133: the rendered line, for each direction and for any size: the size is not read. -/
def Obligations.RenderPrintsMnemonicAndTwoOperands : Prop :=
  ∀ (z : OperandSize) (reg rm : Register),
    render ⟨.mov, .registerIsDestination, z, reg, rm⟩ = ['M', 'O', 'V', ' '] ++ name reg ++ [' '] ++ name rm ∧
    render ⟨.mov, .registerIsSource, z, reg, rm⟩ = ['M', 'O', 'V', ' '] ++ name rm ++ [' '] ++ name reg

/-- R134: the sixteen register names. -/
def Obligations.RegisterNamesAreTheTableSpelling : Prop :=
  (name .al = ['A', 'L'] ∧ name .cl = ['C', 'L'] ∧ name .dl = ['D', 'L'] ∧ name .bl = ['B', 'L'] ∧
   name .ah = ['A', 'H'] ∧ name .ch = ['C', 'H'] ∧ name .dh = ['D', 'H'] ∧ name .bh = ['B', 'H']) ∧
  (name .ax = ['A', 'X'] ∧ name .cx = ['C', 'X'] ∧ name .dx = ['D', 'X'] ∧ name .bx = ['B', 'X'] ∧
   name .sp = ['S', 'P'] ∧ name .bp = ['B', 'P'] ∧ name .si = ['S', 'I'] ∧ name .di = ['D', 'I'])

/-- R136 (its length is the spec's derivation) and R141 (D11): every line is `MOV`, a space, two upper-case
letters, a space, two upper-case letters, nine characters, with no comma, tab or line end. -/
def Obligations.EveryLineHasNineCharacters : Prop :=
  ∀ r : InstructionRecord, (render r).length = 9 ∧
    (∃ a b c d : Char, render r = ['M', 'O', 'V', ' ', a, b, ' ', c, d] ∧
      ∀ x ∈ [a, b, c, d], 'A' ≤ x ∧ x ≤ 'Z')

/-- R139: of two records that differ only in direction, one prints `MOV a b` exactly when the other prints
`MOV b a`; with equal operands the two lines are equal (the spec's derivation). -/
def Obligations.DirectionSwapsThePrintedOperands : Prop :=
  ∀ (o : OpCode) (d d' : Direction) (z : OperandSize) (reg rm : Register), d ≠ d' →
    (∀ a b : Text, render ⟨o, d, z, reg, rm⟩ = ['M', 'O', 'V', ' '] ++ a ++ [' '] ++ b ↔
      render ⟨o, d', z, reg, rm⟩ = ['M', 'O', 'V', ' '] ++ b ++ [' '] ++ a) ∧
    (reg = rm → render ⟨o, d, z, reg, rm⟩ = render ⟨o, d', z, reg, rm⟩)

/-- R155 (the spec's derivation): the pairs that print the same line as a given one are that pair and the
pair with D inverted and the REG and RM fields exchanged; the two have different records. -/
def Obligations.EachLineHasExactlyTwoEncodings : Prop :=
  ∀ (b0 b1 c0 c1 : Byte) (t : Text), decodeAndRender b0 b1 = .ok t →
    (decodeAndRender c0 c1 = .ok t ↔
      (c0 = b0 ∧ c1 = b1) ∨
      (c0 = b0 ^^^ 0x02#8 ∧ c1 = 0b11#2 ++ fieldRm b1 ++ fieldReg b1)) ∧
    decodeRecord b0 b1 ≠ decodeRecord (b0 ^^^ 0x02#8) (0b11#2 ++ fieldRm b1 ++ fieldReg b1)

/-! ## The whole decode -/

/-- The closed form of R156 (the spec's derivation), on the numbers of the two bytes, and that the text the
block puts out beside the record is this one. -/
def Obligations.DecodeAndRenderClosedForm : Prop :=
  ∀ b0 b1 : Byte,
    decodeAndRender b0 b1 =
      (if b0.toNat >>> 2 ≠ 0b100010 then .err (.unrecognizedOpcode b0)
       else if b1.toNat >>> 6 ≠ 0b11 then .err (.unsupportedAddressingMode b1)
       else
        let z : OperandSize := if b0.toNat &&& 1 = 1 then .word else .byte
        let r := name (resolveRegister (BitVec.ofNat 3 ((b1.toNat >>> 3) &&& 7)) z)
        let m := name (resolveRegister (BitVec.ofNat 3 (b1.toNat &&& 7)) z)
        .ok (if (b0.toNat >>> 1) &&& 1 = 1 then ['M', 'O', 'V', ' '] ++ r ++ [' '] ++ m
             else ['M', 'O', 'V', ' '] ++ m ++ [' '] ++ r)) ∧
    (blockResult b0 b1).map BlockOutput.text = decodeAndRender b0 b1

/-- R72 and R74: which pairs are rejected for their opcode, and that every pair is a valid word or one of
the two errors. The clause on the mode error is R73 (D3; log 14), the priority R174 (D6; log 19). -/
def Obligations.EveryPairIsAValidWordOrOneError : Prop :=
  ∀ b0 b1 : Byte,
    (decode b0 b1 = .err (.unrecognizedOpcode b0) ↔ b0.toNat ≤ 0x87 ∨ 0x8C ≤ b0.toNat) ∧
    (decode b0 b1 = .err (.unsupportedAddressingMode b1) ↔
      (0x88 ≤ b0.toNat ∧ b0.toNat ≤ 0x8B) ∧ b1.toNat ≤ 0xBF) ∧
    ((∃ i, decode b0 b1 = .ok i) ↔ (0x88 ≤ b0.toNat ∧ b0.toNat ≤ 0x8B) ∧ 0xC0 ≤ b1.toNat) ∧
    (∀ e, decode b0 b1 = .err e → e = .unrecognizedOpcode b0 ∨ e = .unsupportedAddressingMode b1)

/-- R79 (the spec's derivation): the valid instruction words are those with `iw & 0xFCC0 = 0x88C0`, all
between 0x88C0 and 0x8BFF, and there are 256 of them. -/
def Obligations.ValidWordsAreTwoHundredFiftySix : Prop :=
  (∀ b0 b1 : Byte, (∃ i, decode b0 b1 = .ok i) ↔ instrWord b0 b1 &&& 0xFCC0#16 = 0x88C0#16) ∧
  (∀ b0 b1 i, decode b0 b1 = .ok i →
    0x88C0 ≤ (instrWord b0 b1).toNat ∧ (instrWord b0 b1).toNat ≤ 0x8BFF) ∧
  (∃ ws : List (Byte × Byte), ws.Nodup ∧ ws.length = 256 ∧ ∀ p, p ∈ ws ↔ ∃ i, decode p.1 p.2 = .ok i)

/-- R80 (the spec's derivation): match and mask of each of the four rows. -/
def Obligations.EachRowMatchesItsMask : Prop :=
  ∀ b0 b1 : Byte,
    ((∃ reg rm, decode b0 b1 = .ok (.movRegIsSourceByte reg rm)) ↔
      instrWord b0 b1 &&& 0xFFC0#16 = 0x88C0#16) ∧
    ((∃ reg rm, decode b0 b1 = .ok (.movRegIsSourceWord reg rm)) ↔
      instrWord b0 b1 &&& 0xFFC0#16 = 0x89C0#16) ∧
    ((∃ reg rm, decode b0 b1 = .ok (.movRegIsDestinationByte reg rm)) ↔
      instrWord b0 b1 &&& 0xFFC0#16 = 0x8AC0#16) ∧
    ((∃ reg rm, decode b0 b1 = .ok (.movRegIsDestinationWord reg rm)) ↔
      instrWord b0 b1 &&& 0xFFC0#16 = 0x8BC0#16)

/-- Decoding the encoding of a well-formed instruction gives it back, for every row and every operand. -/
def Obligations.DecodeInvertsEncode : Prop :=
  ∀ i : Instr, i.wellFormed = true → decode (encode i).1 (encode i).2 = .ok i

/-- Encoding a decoded instruction gives its two bytes back, and every decoded instruction is well-formed:
no accepted bit is dropped. -/
def Obligations.EncodeInvertsDecode : Prop :=
  ∀ b0 b1 i, decode b0 b1 = .ok i → encode i = (b0, b1) ∧ i.wellFormed = true

/-- A sanity check on words written out from the spec: scenarios 1 to 4 of the source and the worked
example of R153. -/
def Obligations.SpecWordsDecodeAsWritten : Prop :=
  decode 0b10001001#8 0b11011001#8 = .ok (.movRegIsSourceWord .bx .cx) ∧
  decode 0b10001000#8 0b11000001#8 = .ok (.movRegIsSourceByte .al .cl) ∧
  decode 0b10001011#8 0b11000001#8 = .ok (.movRegIsDestinationWord .ax .cx) ∧
  decode 0b10001010#8 0b11000001#8 = .ok (.movRegIsDestinationByte .al .cl) ∧
  decode 0b11110000#8 0b00000000#8 = .err (.unrecognizedOpcode 0xF0#8)

/-! ## Instructions and steps -/

/-- What each of the four instructions answers, from every state and for every operand. On well-formed
operands the record and the line are those of R151 to R154. On ill-formed ones, which no rule of R151 to
R154 speaks of and no decoded instruction has, they follow the formula of `render` (R140, D22), which is
the model's choice (log 13). That the result takes the next place in the list is R50 (D14), that the
position advances by two is R31 (D15); that State holds the two, and that a result keeps record and line
together, are the model's choices (logs 1, 7). -/
def Obligations.EachInstructionProducesItsRecordAndLine : Prop :=
  ∀ (reg rm : Register) (s : State),
    exec (.movRegIsSourceByte reg rm) s = .next
      ⟨s.stream, s.pos + 2, s.out ++ [.ok ⟨⟨.mov, .registerIsSource, .byte, reg, rm⟩,
        ['M', 'O', 'V', ' '] ++ name rm ++ [' '] ++ name reg⟩]⟩ ∧
    exec (.movRegIsSourceWord reg rm) s = .next
      ⟨s.stream, s.pos + 2, s.out ++ [.ok ⟨⟨.mov, .registerIsSource, .word, reg, rm⟩,
        ['M', 'O', 'V', ' '] ++ name rm ++ [' '] ++ name reg⟩]⟩ ∧
    exec (.movRegIsDestinationByte reg rm) s = .next
      ⟨s.stream, s.pos + 2, s.out ++ [.ok ⟨⟨.mov, .registerIsDestination, .byte, reg, rm⟩,
        ['M', 'O', 'V', ' '] ++ name reg ++ [' '] ++ name rm⟩]⟩ ∧
    exec (.movRegIsDestinationWord reg rm) s = .next
      ⟨s.stream, s.pos + 2, s.out ++ [.ok ⟨⟨.mov, .registerIsDestination, .word, reg, rm⟩,
        ['M', 'O', 'V', ' '] ++ name reg ++ [' '] ++ name rm⟩]⟩

/-- The frame of the four instructions: the stream and every earlier result are unchanged, exactly one
result is added, and the position advances by two (R31). The machine has no register contents, flags or
data memory to change (R7, R32, R47). -/
def Obligations.ExecChangesOnlyPositionAndNextResult : Prop :=
  ∀ (i : Instr) (s t : State), exec i s = .next t →
    t.stream = s.stream ∧ t.pos = s.pos + 2 ∧ t.out.length = s.out.length + 1 ∧
    (∀ k, k < s.out.length → t.out[k]? = s.out[k]?)

/-- A step runs the instruction that the pair at the position decodes to; the instruction itself moves the
position past its two bytes. -/
def Obligations.StepRunsTheDecodedInstruction : Prop :=
  ∀ (s : State) (b0 b1 : Byte) (i : Instr), s.Ready →
    s.stream[s.pos]? = some b0 → s.stream[s.pos + 1]? = some b1 → decode b0 b1 = .ok i →
    step s = exec i s

/-- R175, with the position rule of R31 (D15) and the stream rule of R178 (D14): a step on a pair that does
not decode delivers the error in the pair's place, with no record and no text, and changes nothing else
but the position. -/
def Obligations.StepDeliversADecodeErrorInPlace : Prop :=
  ∀ (s : State) (b0 b1 : Byte) (e : DecodeError), s.Ready →
    s.stream[s.pos]? = some b0 → s.stream[s.pos + 1]? = some b1 → decode b0 b1 = .err e →
    step s = .next ⟨s.stream, s.pos + 2, s.out ++ [.err e]⟩

/-- What one of the rules R151 to R154 says of a step, for the form with this first byte, direction and size:
with MOD = 11 the record and the line of the form are the pair's result; with any other MOD the mode
error is. -/
def Sys2Proof.Machine.FormSteps (byte0 : Byte) (d : Direction) (z : OperandSize) : Prop :=
  ∀ (s : State) (byte1 : Byte), s.Ready →
    s.stream[s.pos]? = some byte0 → s.stream[s.pos + 1]? = some byte1 →
    (∀ REG RM : BitVec 3, byte1 = 0b11#2 ++ REG ++ RM →
      step s = .next ⟨s.stream, s.pos + 2, s.out ++
        [.ok ⟨⟨.mov, d, z, resolveRegister REG z, resolveRegister RM z⟩,
          ['M', 'O', 'V', ' '] ++
            (match d with
             | .registerIsDestination =>
               name (resolveRegister REG z) ++ [' '] ++ name (resolveRegister RM z)
             | .registerIsSource =>
               name (resolveRegister RM z) ++ [' '] ++ name (resolveRegister REG z))⟩]⟩) ∧
    (byte1.toNat >>> 6 ≠ 0b11 →
      step s = .next ⟨s.stream, s.pos + 2, s.out ++ [.err (.unsupportedAddressingMode byte1)]⟩)

/-- R151 to R154 as a step shows them: the four forms, each with its first byte, direction, size, text order
and error. Those rules give the record, the line and the error; what else is stated rests on more: that a
wrong mode is an error, and the error's name, are the spec's decisions (D3, D4; log 14); that the error
is a next state is the model's reading of R178 and R50 (log 3); that the position advances by two is R31
(D15), that the result is appended to a list is R50 (D14); that State holds the two, and that a result
keeps record and line together, are the model's choices (logs 1, 7). -/
def Obligations.EachFormStepsAsItsRuleSays : Prop :=
  FormSteps 0x88#8 .registerIsSource .byte ∧
  FormSteps 0x89#8 .registerIsSource .word ∧
  FormSteps 0x8A#8 .registerIsDestination .byte ∧
  FormSteps 0x8B#8 .registerIsDestination .word

/-- When a step answers a next state, and why it stops otherwise. The refusal of an odd stream is R45 (D13;
log 5); the refusal of an odd position and the fault at the end of the stream are the model's own
(log 6, log 4). From a state that has a pair there is no hang and no stop (R207). -/
def Obligations.StepStopsExactlyWhenNoPairIsThere : Prop :=
  ∀ s : State,
    ((∃ t, step s = .next t) ↔ s.Ready) ∧
    (s.stream.length % 2 = 1 → step s = .refused .oddStream) ∧
    (s.stream.length % 2 = 0 → s.pos % 2 = 1 → step s = .refused .oddPosition) ∧
    (s.stream.length % 2 = 0 → s.pos % 2 = 0 → s.stream.length < s.pos + 2 →
      step s = .fault (.endOfStream s.pos))

/-- The machine agrees with the spec's own function: a step adds exactly the result of the pure function of
the two bytes (R20, R156), whatever the state holds besides. -/
def Obligations.StepAddsTheBlockResultOfThePair : Prop :=
  ∀ (s : State) (b0 b1 : Byte), s.Ready →
    s.stream[s.pos]? = some b0 → s.stream[s.pos + 1]? = some b1 →
    step s = .next ⟨s.stream, s.pos + 2, s.out ++ [blockResult b0 b1]⟩

/-- R20, R49: two runs that differ in everything but the pair handed over add the same result. -/
def Obligations.ResultDependsOnThePairAlone : Prop :=
  ∀ s s' t t' : State,
    s.stream[s.pos]? = s'.stream[s'.pos]? → s.stream[s.pos + 1]? = s'.stream[s'.pos + 1]? →
    step s = .next t → step s' = .next t' →
    ∃ r, t.out = s.out ++ [r] ∧ t'.out = s'.out ++ [r]

/-! ## Runs -/

/-- Every step keeps the invariant: the results are what the block gives for the pairs before the
position, each in its place. -/
def Obligations.StepKeepsTheRunInvariant : Prop :=
  ∀ s t : State, s.Inv → step s = .next t → t.Inv

/-- The invariant holds after reset and after any stream is loaded; what reset leaves is `pos = 0` and no
results, as the spec says (R31, R39), and the empty stream, which is the model's choice (log 2). -/
def Obligations.InvariantHoldsAtResetAndLoad : Prop :=
  State.reset.Inv ∧ (∀ stream, (State.load stream).Inv) ∧
  State.reset.pos = 0 ∧ State.reset.out = [] ∧ State.reset.stream = []

/-- R43, R50, R178 (D14): from an even-length stream, `n / 2` steps end at `pos = n` with one result
for each pair, in input order, the result of pair `k` being that of `(s[2k], s[2k+1])`. -/
def Obligations.RunDecodesEveryPairInOrder : Prop :=
  ∀ stream : List Byte, stream.length % 2 = 0 →
    ∃ t : State, Sys2Proof.core.run (stream.length / 2) (State.load stream) = .next t ∧
      t.pos = stream.length ∧ t.stream = stream ∧ t.results.length = stream.length / 2 ∧
      (∀ k b0 b1, stream[2 * k]? = some b0 → stream[2 * k + 1]? = some b1 →
        t.results[k]? = some (decodeAndRender b0 b1))

/-- R45 (D13; log 5): an odd-length stream is refused whole: no run of one or more steps has a result. -/
def Obligations.OddStreamIsRefusedWhole : Prop :=
  ∀ (stream : List Byte) (k : Nat), stream.length % 2 = 1 →
    Sys2Proof.core.run (k + 1) (State.load stream) = .refused .oddStream

/-- R50 (D11; log 15): the text of a stream, cut at the line feeds, is the list of its `Ok` lines; no line
feed stands after the last line, and a stream without an `Ok` line has no text. -/
def Obligations.StreamTextIsTheLinesJoined : Prop :=
  ∀ s : State, s.Inv →
    (okLines s.results = [] → streamText s.results = []) ∧
    (okLines s.results ≠ [] → (streamText s.results).splitOn '\n' = okLines s.results) ∧
    (okLines s.results ≠ [] → (streamText s.results).getLast? ≠ some '\n')

/-- The guarantee of `withFetchWord`, which is the model's own (log 18): from any state at an even position,
the next step runs the placed word. -/
def Obligations.PlacedWordIsTheNextPair : Prop :=
  ∀ (s : State) (b0 b1 : Byte), s.pos % 2 = 0 →
    step (s.withFetchWord 16 (instrWord b0 b1).toNat) =
      .next ⟨(s.withFetchWord 16 (instrWord b0 b1).toNat).stream, s.pos + 2, s.out ++ [blockResult b0 b1]⟩

/-! ## Ports and reports -/

/-- R36 to R38 (D7 to D9; log 8): the output ports for every input pair. For a pair the block accepts they
are the instruction bits passed through and the line; for any other, the status, the byte and nothing
else. -/
def Obligations.PortsCarryTheResult : Prop :=
  ∀ b0 b1 : Byte,
    (∀ t, decodeAndRender b0 b1 = .ok t →
      blockPorts b0 b1 =
        ⟨0b00#2, none, some 0b100010#6, some (fieldD b0), some (fieldW b0),
          some (fieldW b0 ++ fieldReg b1), some (fieldW b0 ++ fieldRm b1), some (textCode t), 1#1⟩) ∧
    (decodeAndRender b0 b1 = .err (.unrecognizedOpcode b0) →
      blockPorts b0 b1 = ⟨0b01#2, some b0, none, none, none, none, none, none, 0#1⟩) ∧
    (decodeAndRender b0 b1 = .err (.unsupportedAddressingMode b1) →
      blockPorts b0 b1 = ⟨0b10#2, some b1, none, none, none, none, none, none, 0#1⟩) ∧
    (blockPorts b0 b1).status ≠ 0b11#2

/-- R36 and R137 (D10; the codes are PRESUMED, log 9): character `i` of a line stands in bits
`71 - 8i` down to `64 - 8i` of the text port, as its ASCII code. -/
def Obligations.TextPortHoldsTheLineInAscii : Prop :=
  ∀ (r : InstructionRecord) (i : Nat) (c : Char), (render r)[i]? = some c →
    (textCode (render r)).extractLsb' (64 - 8 * i) 8 = BitVec.ofNat 8 c.toNat ∧
    (c, BitVec.ofNat 8 c.toNat) ∈
      [(' ', 0x20#8), ('A', 0x41#8), ('B', 0x42#8), ('C', 0x43#8), ('D', 0x44#8), ('H', 0x48#8),
       ('I', 0x49#8), ('L', 0x4C#8), ('M', 0x4D#8), ('O', 0x4F#8), ('P', 0x50#8), ('S', 0x53#8),
       ('V', 0x56#8), ('X', 0x58#8)]

/-- R177 (D18; log 10): whatever its wording, an error report contains the offending byte as eight binary
digits, most significant bit first. -/
def Obligations.ErrorReportShowsTheByteInBinary : Prop :=
  (∀ e : DecodeError, bin8 (errorByte e) <:+: errorReportText e) ∧
  (∀ b : Byte, (bin8 b).length = 8 ∧
    ∀ i, i < 8 → (bin8 b)[i]? = some (if b.getMsbD i then '1' else '0'))
end

