-- ==== Sys2Proof/Laws/Decode.lean ====
section
/-! SUPPORT. What the parts of the decoder and the encoder do, each said once: the resolver and its
inverse, the fields of an encoded byte1, and the decode pipeline when its checks pass or fail. -/

namespace Sys2Proof

@[simp] theorem Result.map_ok {α β ε : Type} (f : α → β) (v : α) :
    (Result.ok v : Result α ε).map f = .ok (f v) := rfl

@[simp] theorem Result.map_err {α β ε : Type} (f : α → β) (e : ε) :
    (Result.err e : Result α ε).map f = .err e := rfl

/-- The resolver answers a register of the column of its size. -/
theorem resolveRegister_inColumn (f : BitVec 3) (z : OperandSize) :
    (resolveRegister f z).inColumn z = true := by
  cases z <;> revert f <;> decide

/-- The encoder's register field undoes the resolver. -/
@[simp] theorem encodeRegister_resolveRegister (f : BitVec 3) (z : OperandSize) :
    encodeRegister (resolveRegister f z) = f := by
  cases z <;> revert f <;> decide

/-- The resolver undoes the encoder's register field, on the registers of the column. -/
theorem resolveRegister_encodeRegister {r : Register} {z : OperandSize} (h : r.inColumn z = true) :
    resolveRegister (encodeRegister r) z = r := by
  cases z <;> cases r <;> first | rfl | exact absurd h (by decide)

@[simp] theorem fieldMod_encodeByte1 (reg rm : Register) : fieldMod (encodeByte1 reg rm) = 0b11#2 := by
  simp only [encodeByte1]
  generalize encodeRegister reg = f
  generalize encodeRegister rm = g
  revert f g; decide

@[simp] theorem fieldReg_encodeByte1 (reg rm : Register) :
    fieldReg (encodeByte1 reg rm) = encodeRegister reg := by
  simp only [encodeByte1]
  generalize encodeRegister reg = f
  generalize encodeRegister rm = g
  revert f g; decide

@[simp] theorem fieldRm_encodeByte1 (reg rm : Register) :
    fieldRm (encodeByte1 reg rm) = encodeRegister rm := by
  simp only [encodeByte1]
  generalize encodeRegister reg = f
  generalize encodeRegister rm = g
  revert f g; decide

/-- A byte with MOD = 11 is rebuilt from its REG and RM fields. -/
theorem byte1_of_fields {b : Byte} (h : fieldMod b = 0b11#2) : 0b11#2 ++ fieldReg b ++ fieldRm b = b := by
  revert b; decide

/-- The decode of a pair that passes both checks. -/
theorem decodeRecord_of_checks {b0 b1 : Byte} (h0 : fieldOpc b0 = 0b100010#6) (h1 : fieldMod b1 = 0b11#2) :
    decodeRecord b0 b1 = .ok
      ⟨.mov, decodeDirection b0, decodeOperandSize b0,
        resolveRegister (fieldReg b1) (decodeOperandSize b0),
        resolveRegister (fieldRm b1) (decodeOperandSize b0)⟩ := by
  simp [decodeRecord, decodeOpcode, checkMode, h0, h1]

/-- The decode of a pair that fails the opcode check: the mode is not examined. -/
theorem decodeRecord_of_bad_opcode {b0 : Byte} (b1 : Byte) (h0 : fieldOpc b0 ≠ 0b100010#6) :
    decodeRecord b0 b1 = .err (.unrecognizedOpcode b0) := by
  simp [decodeRecord, decodeOpcode, h0]

/-- The decode of a pair that fails the mode check only. -/
theorem decodeRecord_of_bad_mode {b0 b1 : Byte} (h0 : fieldOpc b0 = 0b100010#6)
    (h1 : fieldMod b1 ≠ 0b11#2) : decodeRecord b0 b1 = .err (.unsupportedAddressingMode b1) := by
  simp [decodeRecord, decodeOpcode, checkMode, h0, h1]

/-- Everything a successful decode says: both checks passed, and the record is made of the two bytes. -/
theorem decodeRecord_ok_cases {b0 b1 : Byte} {r : InstructionRecord} (h : decodeRecord b0 b1 = .ok r) :
    fieldOpc b0 = 0b100010#6 ∧ fieldMod b1 = 0b11#2 ∧ r =
      ⟨.mov, decodeDirection b0, decodeOperandSize b0,
        resolveRegister (fieldReg b1) (decodeOperandSize b0),
        resolveRegister (fieldRm b1) (decodeOperandSize b0)⟩ := by
  by_cases h0 : fieldOpc b0 = 0b100010#6
  · by_cases h1 : fieldMod b1 = 0b11#2
    · rw [decodeRecord_of_checks h0 h1] at h
      exact ⟨h0, h1, (Result.ok.inj h).symm⟩
    · rw [decodeRecord_of_bad_mode h0 h1] at h; cases h
  · rw [decodeRecord_of_bad_opcode b1 h0] at h; cases h

@[simp] theorem ofRecord_toRecord (i : Instr) : Instr.ofRecord i.toRecord = i := by
  cases i <;> rfl

@[simp] theorem toRecord_ofRecord (r : InstructionRecord) : (Instr.ofRecord r).toRecord = r := by
  obtain ⟨o, d, z, reg, rm⟩ := r
  cases o; cases d <;> cases z <;> rfl

/-- The two bytes of an instruction word are its halves. -/
@[simp] theorem wordBytes_instrWord (b0 b1 : Byte) : wordBytes (instrWord b0 b1) = (b0, b1) := by
  simp only [wordBytes, instrWord, Prod.mk.injEq]
  exact ⟨BitVec.extractLsb'_append_eq_left, BitVec.extractLsb'_append_eq_right⟩

end Sys2Proof
end

