-- ==== Sys2Proof/Laws/State.lean ====
section
/-! SUPPORT. One lemma per field per update of State, and for the state after reset and after a load. -/

namespace Sys2Proof.Machine

@[simp] theorem deliver_stream (r s) : (deliver r s).stream = s.stream := rfl
@[simp] theorem deliver_pos (r s) : (deliver r s).pos = s.pos + 2 := rfl
@[simp] theorem deliver_out (r s) : (deliver r s).out = s.out ++ [r] := rfl

@[simp] theorem raiseError_stream (e s) : (raiseError e s).stream = s.stream := rfl
@[simp] theorem raiseError_pos (e s) : (raiseError e s).pos = s.pos + 2 := rfl
@[simp] theorem raiseError_out (e s) : (raiseError e s).out = s.out ++ [.err e] := rfl

@[simp] theorem reset_stream : State.reset.stream = [] := rfl
@[simp] theorem reset_pos : State.reset.pos = 0 := rfl
@[simp] theorem reset_out : State.reset.out = [] := rfl

@[simp] theorem load_stream (l) : (State.load l).stream = l := rfl
@[simp] theorem load_pos (l) : (State.load l).pos = 0 := rfl
@[simp] theorem load_out (l) : (State.load l).out = [] := rfl

@[simp] theorem withFetchWord_pos (s : State) (n w) : (s.withFetchWord n w).pos = s.pos := rfl
@[simp] theorem withFetchWord_out (s : State) (n w) : (s.withFetchWord n w).out = s.out := rfl
@[simp] theorem withFetchWord_stream (s : State) (n w) : (s.withFetchWord n w).stream =
    placePair s.stream s.pos (wordBytes (BitVec.ofNat 16 (w % 2 ^ n))) := rfl

/-- `produce` always answers a next state: the output of its record, delivered. -/
@[simp] theorem produce_eq (r s) : produce r s = .next (deliver (.ok (outputOf r)) s) := rfl

end Sys2Proof.Machine
end

