-- ==== Sys2Proof/Laws/Machine.lean ====
section
/-! SUPPORT. What each shared operation of the machine can do, said once: reading a pair, fetching,
executing, placing a pair. -/

namespace Sys2Proof.Machine

theorem bytesAt_eq_some {stream : List Byte} {p : Nat} {b0 b1 : Byte} :
    bytesAt stream p = some (b0, b1) ↔ stream[p]? = some b0 ∧ stream[p + 1]? = some b1 := by
  unfold bytesAt
  cases stream[p]? <;> cases stream[p + 1]? <;> simp

theorem bytesAt_eq_none {stream : List Byte} {p : Nat} :
    bytesAt stream p = none ↔ stream.length < p + 2 := by
  unfold bytesAt
  by_cases h : p + 1 < stream.length
  · simp [List.getElem?_eq_getElem h, List.getElem?_eq_getElem (show p < stream.length by omega)]
    omega
  · have hn : stream[p + 1]? = none := List.getElem?_eq_none (by omega)
    cases h0 : stream[p]? <;> simp [hn] <;> omega

theorem streamWellFormed_iff {stream : List Byte} :
    streamWellFormed stream = true ↔ stream.length % 2 = 0 := by
  simp [streamWellFormed]

/-- `fetch` at an even offset of a stream of even length hands over the pair there. -/
theorem fetch_of_pair {s : State} {pair : Byte × Byte} (h : s.stream.length % 2 = 0) (hp : s.pos % 2 = 0)
    (hb : bytesAt s.stream s.pos = some pair) : fetch s = .next pair := by
  simp [fetch, streamWellFormed_iff.mpr h, hp, hb]

/-- `fetch` on a stream of odd length. -/
theorem fetch_of_odd_stream {s : State} (h : s.stream.length % 2 = 1) : fetch s = .refused .oddStream := by
  have hf : streamWellFormed s.stream = false := by simp [streamWellFormed, h]
  simp [fetch, hf]

/-- `fetch` at an odd offset of a stream of even length. -/
theorem fetch_of_odd_pos {s : State} (h : s.stream.length % 2 = 0) (hp : s.pos % 2 = 1) :
    fetch s = .refused .oddPosition := by
  simp [fetch, streamWellFormed_iff.mpr h, hp]

/-- `fetch` past the last pair of a stream of even length. -/
theorem fetch_at_end {s : State} (h : s.stream.length % 2 = 0) (hp : s.pos % 2 = 0)
    (hl : s.stream.length < s.pos + 2) : fetch s = .fault (.endOfStream s.pos) := by
  simp [fetch, streamWellFormed_iff.mpr h, hp, bytesAt_eq_none.mpr hl]

/-- When `fetch` hands over a pair, and which. -/
theorem fetch_eq_next {s : State} {b0 b1 : Byte} :
    fetch s = .next (b0, b1) ↔
      s.Ready ∧ s.stream[s.pos]? = some b0 ∧ s.stream[s.pos + 1]? = some b1 := by
  rw [← bytesAt_eq_some]
  constructor
  · intro h
    by_cases hs : s.stream.length % 2 = 1
    · rw [fetch_of_odd_stream hs] at h; cases h
    by_cases hp : s.pos % 2 = 1
    · rw [fetch_of_odd_pos (by omega) hp] at h; cases h
    cases hb : bytesAt s.stream s.pos with
    | none =>
      rw [fetch_at_end (by omega) (by omega) (bytesAt_eq_none.mp hb)] at h; cases h
    | some q =>
      rw [fetch_of_pair (by omega) (by omega) hb] at h
      have hl : ¬ s.stream.length < s.pos + 2 := by rw [← bytesAt_eq_none, hb]; simp
      exact ⟨⟨by omega, by omega, by omega⟩, congrArg some (Host.Outcome.next.inj h)⟩
  · rintro ⟨⟨hs, hp, -⟩, hb⟩
    exact fetch_of_pair hs hp hb

/-- A ready state has both bytes of its next pair. -/
theorem State.Ready.pair {s : State} (h : s.Ready) :
    ∃ b0 b1, s.stream[s.pos]? = some b0 ∧ s.stream[s.pos + 1]? = some b1 := by
  obtain ⟨-, -, hl⟩ := h
  exact ⟨_, _, List.getElem?_eq_getElem (by omega), List.getElem?_eq_getElem (by omega)⟩

/-- Everything an instruction does: its record and the record's line are delivered. -/
theorem exec_eq (i : Instr) (s : State) : exec i s = .next (deliver (.ok (outputOf i.toRecord)) s) := by
  cases i <;> rfl

/-- The length of a stream with a pair placed in it is even wherever the pair stands at an even offset. -/
theorem placePair_length (stream : List Byte) (p : Nat) (pair : Byte × Byte) :
    (placePair stream p pair).length = p + 2 + 2 * ((stream.length - (p + 2)) / 2) := by
  simp only [placePair, List.length_append, List.length_take, List.length_replicate, List.length_cons,
    List.length_nil, List.length_drop]
  omega

/-- The placed pair stands where it was placed. -/
theorem bytesAt_placePair (stream : List Byte) (p : Nat) (pair : Byte × Byte) :
    bytesAt (placePair stream p pair) p = some pair := by
  have hl : (stream.take p ++ List.replicate (p - stream.length) 0#8).length = p := by
    simp only [List.length_append, List.length_take, List.length_replicate]; omega
  obtain ⟨b0, b1⟩ := pair
  rw [bytesAt_eq_some]
  simp only [placePair, List.append_assoc (_ ++ _)]
  constructor
  · rw [List.getElem?_append_right (by omega), hl, Nat.sub_self]; rfl
  · rw [List.getElem?_append_right (by omega), hl, Nat.add_sub_cancel_left]; rfl

/-! Runs, one step at a time. -/

theorem run_zero (s : State) : Sys2Proof.core.run 0 s = .next s := rfl

theorem run_succ_of_next {s t : State} (k : Nat) (h : step s = .next t) :
    Sys2Proof.core.run (k + 1) s = Sys2Proof.core.run k t := by
  have h' : Sys2Proof.core.step s = .next t := h
  simp only [Host.Core.run, h']

theorem run_succ_of_fault {s : State} {f : Fault} (k : Nat) (h : step s = .fault f) :
    Sys2Proof.core.run (k + 1) s = .fault f := by
  have h' : Sys2Proof.core.step s = .fault f := h
  simp only [Host.Core.run, h']

theorem run_succ_of_refused {s : State} {r : Refusal} (k : Nat) (h : step s = .refused r) :
    Sys2Proof.core.run (k + 1) s = .refused r := by
  have h' : Sys2Proof.core.step s = .refused r := h
  simp only [Host.Core.run, h']

end Sys2Proof.Machine
end

