-- ==== Sys2Proof/Laws/PerInstr.lean ====
section
/-! SUPPORT. Per-instruction facts about the syntax, one lemma per constructor. Family `MatchesRow`: the
word the encoder gives an instruction lies in that instruction's row of spec/opcode_table.json (R80). -/

namespace Sys2Proof.Laws

/-- The `match` value of an instruction's row in spec/opcode_table.json; the mask of every row is 0xFFC0. -/
def rowMatch (i : Instr) : InstrWord :=
  match i with
  | .movRegIsSourceByte _ _ => 0x88C0#16
  | .movRegIsSourceWord _ _ => 0x89C0#16
  | .movRegIsDestinationByte _ _ => 0x8AC0#16
  | .movRegIsDestinationWord _ _ => 0x8BC0#16

/-- The encoded word of `i` is in the row of `i`. -/
def MatchesRow.Statement (i : Instr) : Prop :=
  instrWord (encode i).1 (encode i).2 &&& 0xFFC0#16 = rowMatch i

theorem MatchesRow.movRegIsSourceByte (reg rm : Register) :
    MatchesRow.Statement (.movRegIsSourceByte reg rm) := by
  simp only [MatchesRow.Statement, encode, encodeByte1, rowMatch]
  generalize encodeRegister reg = f
  generalize encodeRegister rm = g
  revert f g; decide

theorem MatchesRow.movRegIsSourceWord (reg rm : Register) :
    MatchesRow.Statement (.movRegIsSourceWord reg rm) := by
  simp only [MatchesRow.Statement, encode, encodeByte1, rowMatch]
  generalize encodeRegister reg = f
  generalize encodeRegister rm = g
  revert f g; decide

theorem MatchesRow.movRegIsDestinationByte (reg rm : Register) :
    MatchesRow.Statement (.movRegIsDestinationByte reg rm) := by
  simp only [MatchesRow.Statement, encode, encodeByte1, rowMatch]
  generalize encodeRegister reg = f
  generalize encodeRegister rm = g
  revert f g; decide

theorem MatchesRow.movRegIsDestinationWord (reg rm : Register) :
    MatchesRow.Statement (.movRegIsDestinationWord reg rm) := by
  simp only [MatchesRow.Statement, encode, encodeByte1, rowMatch]
  generalize encodeRegister reg = f
  generalize encodeRegister rm = g
  revert f g; decide

end Sys2Proof.Laws
end

