-- ==== Sys2Proof/Tests/Slice0.lean ====
section
/-! SUPPORT. The model's own tests. Expected results are the spec's: the scenarios S1 to S4 and the vectors
of 95_test_vectors.md, and words written out from 30_encoding.md R61, R62, R80. The theorems `witness_…`
show, for each statement with hypotheses, values that meet them. -/

namespace Sys2Proof.Tests

open Sys2Proof.Machine

/-- The next state of an outcome, if it is one. -/
def nextOf (o : Host.Outcome State Fault Refusal) : Option State :=
  match o with
  | .next s => some s
  | _ => none

/-- A stream of two pairs, at its start: scenario 1, scenario 3. -/
def twoPairs : State := State.load [0x89#8, 0xD9#8, 0x8B#8, 0xC1#8]

/-- A one-pair stream, at its start. -/
def onePair (byte0 byte1 : Byte) : State := State.load [byte0, byte1]

/-! ## Well-formedness: each check refuses an ill-formed term -/

theorem test_byte_form_refuses_word_register :
    (Instr.movRegIsSourceByte .al .cx).wellFormed = false := by decide
theorem test_byte_form_refuses_word_reg_operand :
    (Instr.movRegIsDestinationByte .sp .cl).wellFormed = false := by decide
theorem test_word_form_refuses_byte_register :
    (Instr.movRegIsSourceWord .ah .cx).wellFormed = false := by decide
theorem test_word_form_refuses_byte_rm_operand :
    (Instr.movRegIsDestinationWord .ax .bh).wellFormed = false := by decide
/-- R140's example of an ill-formed record, which `render` is nevertheless defined on (vectors 2.5). -/
theorem test_illformed_record_refused_but_rendered :
    InstructionRecord.wellFormed ⟨.mov, .registerIsDestination, .byte, .al, .cx⟩ = false ∧
    render ⟨.mov, .registerIsDestination, .byte, .al, .cx⟩ = ['M', 'O', 'V', ' ', 'A', 'L', ' ', 'C', 'X'] := by
  decide
/-- Out-of-range specifications and their nearest accepted neighbours (vectors 2.1). -/
theorem test_extract_range :
    extract 0xA5#8 6 3 = none ∧ extract 0xA5#8 8 1 = none ∧ extract 0xA5#8 0 9 = none ∧
    extract 0xA5#8 5 3 = some 5 ∧ extract 0xA5#8 7 1 = some 1 ∧ extract 0xA5#8 0 8 = some 165 := by decide
theorem test_odd_stream_illformed : streamWellFormed [0x89#8, 0xD9#8, 0x8B#8] = false := by decide

/-! ## Extractor and register table (vectors 2.1, 2.4) -/

theorem test_extract_middle : extract 0xA5#8 1 6 = some 18 ∧ extract 0x3C#8 2 4 = some 15 := by decide
theorem test_extract_empty : extract 0xA5#8 0 0 = some 0 ∧ extract 0xA5#8 8 0 = some 0 := by decide
theorem test_table_rows : resolveRegister 0b100#3 .byte = .ah ∧ resolveRegister 0b100#3 .word = .sp := by decide

/-! ## Decoding: words written out bit by bit -/

/-- Scenario 2: `10001000 11 000 001`. -/
theorem test_decode_movRegIsSourceByte :
    decode 0b10001000#8 0b11000001#8 = .ok (.movRegIsSourceByte .al .cl) := by decide
/-- Scenario 1: `10001001 11 011 001`. -/
theorem test_decode_movRegIsSourceWord :
    decode 0b10001001#8 0b11011001#8 = .ok (.movRegIsSourceWord .bx .cx) := by decide
/-- R80: `10001010 11 111 000` (Program 2, step 7). -/
theorem test_decode_movRegIsDestinationByte :
    decode 0b10001010#8 0b11111000#8 = .ok (.movRegIsDestinationByte .bh .al) := by decide
/-- Scenario 3: `10001011 11 000 001`. -/
theorem test_decode_movRegIsDestinationWord :
    decode 0b10001011#8 0b11000001#8 = .ok (.movRegIsDestinationWord .ax .cx) := by decide
/-- Vectors 2.6: a bad opcode wins over a bad mode; the nearest rejected bytes. -/
theorem test_decode_errors :
    decode 0xF0#8 0x00#8 = .err (.unrecognizedOpcode 0xF0#8) ∧
    decode 0x87#8 0xD9#8 = .err (.unrecognizedOpcode 0x87#8) ∧
    decode 0x8C#8 0xD9#8 = .err (.unrecognizedOpcode 0x8C#8) ∧
    decode 0x22#8 0xC0#8 = .err (.unrecognizedOpcode 0x22#8) ∧
    decode 0x8B#8 0xBF#8 = .err (.unsupportedAddressingMode 0xBF#8) ∧
    decode 0x89#8 0x40#8 = .err (.unsupportedAddressingMode 0x40#8) := by decide
theorem test_table_word :
    decodeTableWord 16 0x8AC1 = some (.movRegIsDestinationByte .al .cl) ∧
    decodeTableWord 16 0xC18A = none ∧ decodeTableWord 16 0x8B06 = none := by decide
theorem test_encode_words :
    encode (.movRegIsSourceWord .bx .cx) = (0x89#8, 0xD9#8) ∧
    encode (.movRegIsDestinationByte .bh .bh) = (0x8A#8, 0xFF#8) := by decide

/-! ## Instructions: one step each -/

theorem test_step_movRegIsSourceByte : (nextOf (step (onePair 0x88#8 0xC1#8))).map State.results =
    some [.ok ['M', 'O', 'V', ' ', 'C', 'L', ' ', 'A', 'L']] := by decide
theorem test_step_movRegIsSourceWord : (nextOf (step (onePair 0x89#8 0xD9#8))).map State.results =
    some [.ok ['M', 'O', 'V', ' ', 'C', 'X', ' ', 'B', 'X']] := by decide
theorem test_step_movRegIsDestinationByte : (nextOf (step (onePair 0x8A#8 0xDC#8))).map State.results =
    some [.ok ['M', 'O', 'V', ' ', 'B', 'L', ' ', 'A', 'H']] := by decide
theorem test_step_movRegIsDestinationWord : (nextOf (step (onePair 0x8B#8 0xC1#8))).map State.results =
    some [.ok ['M', 'O', 'V', ' ', 'A', 'X', ' ', 'C', 'X']] := by decide
/-- Program 3, step 1: the error takes its pair's place and the position still moves by two. -/
theorem test_step_error_keeps_place :
    (nextOf (step ⟨[0x89#8, 0xD9#8, 0xF0#8, 0x00#8], 2, [blockResult 0x89#8 0xD9#8]⟩)).map
      (fun s => (s.pos, s.results)) =
    some (4, [.ok ['M', 'O', 'V', ' ', 'C', 'X', ' ', 'B', 'X'], .err (.unrecognizedOpcode 0xF0#8)]) := by
  decide
theorem test_placed_word_runs_after_reset :
    (nextOf (step (State.reset.withFetchWord 16 0x8AFF))).map State.results =
    some [.ok ['M', 'O', 'V', ' ', 'B', 'H', ' ', 'B', 'H']] := by decide
/-- Program 7: no step, and in particular no first line. -/
theorem test_odd_stream_has_no_step : nextOf (step (State.load [0x89#8, 0xD9#8, 0x8B#8])) = none := by decide

/-! ## Ports, text and reports -/

/-- Vectors 2.7, the row `89 D9`. -/
theorem test_ports_ok : blockPorts 0x89#8 0xD9#8 =
    ⟨0b00#2, none, some 0b100010#6, some 0#1, some 1#1, some 0b1011#4, some 0b1001#4,
      some 0x4D4F56204358204258#72, 1#1⟩ := by decide
/-- Vectors 2.7, the row `8B 06`. -/
theorem test_ports_error : blockPorts 0x8B#8 0x06#8 =
    ⟨0b10#2, some 0b00000110#8, none, none, none, none, none, none, 0#1⟩ := by decide
/-- Program 3: `MOV CX BX\nMOV AX CX`. -/
theorem test_stream_text :
    streamText [decodeAndRender 0x89#8 0xD9#8, decodeAndRender 0xF0#8 0x00#8, decodeAndRender 0x8B#8 0xC1#8] =
    ['M', 'O', 'V', ' ', 'C', 'X', ' ', 'B', 'X', '\n', 'M', 'O', 'V', ' ', 'A', 'X', ' ', 'C', 'X'] := by
  decide
/-- R177: `bin8(0xF0)` and `bin8(0x06)`. -/
theorem test_bin8 : bin8 0xF0#8 = ['1', '1', '1', '1', '0', '0', '0', '0'] ∧
    bin8 0x06#8 = ['0', '0', '0', '0', '0', '1', '1', '0'] := by decide

/-! ## Witnesses: values that meet the hypotheses of the statements, clause by clause -/

theorem witness_ExtractReturnsTheRangeRightAligned : (0 + 8 ≤ 8 ∧ 7 < 8) ∧ (8 + 0 ≤ 8) := by decide
theorem witness_ExtractIsShiftAndMask : 7 + 1 ≤ 8 ∧ 1 ≤ 1 := by decide
theorem witness_ExtractCornersAndConcatenation :
    (8 ≤ 8) ∧ (0 + 8 ≤ 8) ∧
    (0 + (4 + 4) ≤ 8 ∧ extract 0xA5#8 0 4 = some 10 ∧ extract 0xA5#8 (0 + 4) 4 = some 5) ∧ 8 < 8 + 1 := by
  decide
theorem witness_OpcodeDecoderAcceptsOnlyMov :
    extract 0x8B#8 0 6 = some 0b100010 ∧ extract 0x8C#8 0 6 ≠ some 0b100010 := by decide
theorem witness_OneBitDecodersAreTotal :
    extract 0x02#8 6 1 = some 1 ∧ extract 0x01#8 6 1 = some 0 ∧
    extract 0x01#8 7 1 = some 1 ∧ extract 0x02#8 7 1 = some 0 := by decide
theorem witness_ModeCheckAcceptsOnlyRegisterDirect :
    extract 0xC0#8 0 2 = some 0b11 ∧ extract 0xBF#8 0 2 ≠ some 0b11 := by decide
theorem witness_FieldDecodersReadOnlyTheirOwnBits :
    (0x88#8).toNat / 4 = (0x8B#8).toNat / 4 ∧ (0x00#8).getLsbD 1 = (0xFD#8).getLsbD 1 ∧
    (0x00#8).getLsbD 0 = (0xFE#8).getLsbD 0 := by decide
theorem witness_ResolverIsOneToOne :
    resolveRegister 7#3 .word = resolveRegister 7#3 .word ∧
    decodeRecord 0x89#8 0xD9#8 = .ok ⟨.mov, .registerIsSource, .word, .bx, .cx⟩ := by decide
theorem witness_DirectionDoesNotLeakIntoTheResolver :
    decodeRecord 0x89#8 0xD9#8 = .ok ⟨.mov, .registerIsSource, .word, .bx, .cx⟩ ∧
    decodeRecord 0x8B#8 0xD9#8 = .ok ⟨.mov, .registerIsDestination, .word, .bx, .cx⟩ := by decide
theorem witness_WordsCorrespondToWellFormedRecords :
    decodeRecord 0x89#8 0xD9#8 = .ok ⟨.mov, .registerIsSource, .word, .bx, .cx⟩ ∧
    InstructionRecord.wellFormed ⟨.mov, .registerIsDestination, .byte, .ah, .bh⟩ = true := by decide
theorem witness_DirectionSwapsThePrintedOperands :
    Direction.registerIsSource ≠ Direction.registerIsDestination ∧ Register.dx = Register.dx := by decide
theorem witness_EachLineHasExactlyTwoEncodings :
    decodeAndRender 0x89#8 0xD9#8 = .ok ['M', 'O', 'V', ' ', 'C', 'X', ' ', 'B', 'X'] ∧
    decodeAndRender 0x8B#8 0xCB#8 = .ok ['M', 'O', 'V', ' ', 'C', 'X', ' ', 'B', 'X'] := by decide
theorem witness_EveryPairIsAValidWordOrOneError :
    decode 0x8B#8 0xBF#8 = .err (.unsupportedAddressingMode 0xBF#8) := by decide
theorem witness_ValidWordsAreTwoHundredFiftySix :
    decode 0x88#8 0xC0#8 = .ok (.movRegIsSourceByte .al .al) ∧
    decode 0x8B#8 0xFF#8 = .ok (.movRegIsDestinationWord .di .di) := by decide
theorem witness_DecodeInvertsEncode :
    (Instr.movRegIsSourceByte .ah .bh).wellFormed = true ∧ (Instr.movRegIsSourceWord .sp .di).wellFormed = true ∧
    (Instr.movRegIsDestinationByte .al .al).wellFormed = true ∧
    (Instr.movRegIsDestinationWord .bx .si).wellFormed = true := by decide
theorem witness_EncodeInvertsDecode :
    decode 0x8A#8 0xFF#8 = .ok (.movRegIsDestinationByte .bh .bh) := by decide
theorem witness_ExecChangesOnlyPositionAndNextResult :
    exec (.movRegIsSourceWord .bx .cx) twoPairs =
      .next (deliver (.ok (outputOf ⟨.mov, .registerIsSource, .word, .bx, .cx⟩)) twoPairs) ∧
    (∃ k, k < (deliver (blockResult 0x89#8 0xD9#8) twoPairs).out.length) := ⟨rfl, 0, by decide⟩
theorem witness_StepRunsTheDecodedInstruction :
    twoPairs.Ready ∧ twoPairs.stream[twoPairs.pos]? = some 0x89#8 ∧
    twoPairs.stream[twoPairs.pos + 1]? = some 0xD9#8 ∧
    decode 0x89#8 0xD9#8 = .ok (.movRegIsSourceWord .bx .cx) := by decide
theorem witness_StepDeliversADecodeErrorInPlace :
    (onePair 0xF0#8 0x00#8).Ready ∧
    (onePair 0xF0#8 0x00#8).stream[(onePair 0xF0#8 0x00#8).pos]? = some 0xF0#8 ∧
    (onePair 0xF0#8 0x00#8).stream[(onePair 0xF0#8 0x00#8).pos + 1]? = some 0x00#8 ∧
    decode 0xF0#8 0x00#8 = .err (.unrecognizedOpcode 0xF0#8) := by decide
/-- Both clauses of each of the four forms, at the boundary values of MOD. -/
theorem witness_EachFormStepsAsItsRuleSays :
    ∀ b ∈ [0x88#8, 0x89#8, 0x8A#8, 0x8B#8],
      ((onePair b 0xC0#8).Ready ∧ (onePair b 0xC0#8).stream[0]? = some b ∧
        (onePair b 0xC0#8).stream[0 + 1]? = some (0b11#2 ++ 0b000#3 ++ 0b000#3)) ∧
      ((onePair b 0xBF#8).Ready ∧ (onePair b 0xBF#8).stream[0]? = some b ∧
        (onePair b 0xBF#8).stream[0 + 1]? = some 0xBF#8 ∧ (0xBF#8).toNat >>> 6 ≠ 0b11) := by decide
theorem witness_StepStopsExactlyWhenNoPairIsThere :
    twoPairs.Ready ∧
    (State.load [0x89#8]).stream.length % 2 = 1 ∧
    (twoPairs.stream.length % 2 = 0 ∧ ({ twoPairs with pos := 1 } : State).pos % 2 = 1) ∧
    (twoPairs.stream.length % 2 = 0 ∧ ({ twoPairs with pos := 4 } : State).pos % 2 = 0 ∧
      twoPairs.stream.length < ({ twoPairs with pos := 4 } : State).pos + 2) := by decide
theorem witness_StepAddsTheBlockResultOfThePair :
    twoPairs.Ready ∧ twoPairs.stream[twoPairs.pos]? = some 0x89#8 ∧
    twoPairs.stream[twoPairs.pos + 1]? = some 0xD9#8 := by decide
/-- The two states differ in stream, position and results, and agree on the pair. -/
theorem witness_ResultDependsOnThePairAlone :
    twoPairs.stream[twoPairs.pos]? = [0x8B#8, 0x06#8, 0x89#8, 0xD9#8][2]? ∧
    twoPairs.stream[twoPairs.pos + 1]? = [0x8B#8, 0x06#8, 0x89#8, 0xD9#8][2 + 1]? ∧
    step twoPairs = .next (deliver (blockResult 0x89#8 0xD9#8) twoPairs) ∧
    step ⟨[0x8B#8, 0x06#8, 0x89#8, 0xD9#8], 2, []⟩ =
      .next (deliver (blockResult 0x89#8 0xD9#8) ⟨[0x8B#8, 0x06#8, 0x89#8, 0xD9#8], 2, []⟩) :=
  ⟨by decide, by decide, rfl, rfl⟩

/-- A state in the middle of a run, which meets the invariant. -/
theorem midRun_inv : (⟨[0x89#8, 0xD9#8, 0x8B#8, 0xC1#8], 2, [blockResult 0x89#8 0xD9#8]⟩ : State).Inv where
  pos_eq := rfl
  pos_le := by decide
  out_eq k hk := by
    have : k = 0 := Nat.lt_one_iff.mp hk
    subst this
    exact ⟨0x89#8, 0xD9#8, rfl, rfl⟩

theorem witness_StepKeepsTheRunInvariant :
    (⟨[0x89#8, 0xD9#8, 0x8B#8, 0xC1#8], 2, [blockResult 0x89#8 0xD9#8]⟩ : State).Inv ∧
    step ⟨[0x89#8, 0xD9#8, 0x8B#8, 0xC1#8], 2, [blockResult 0x89#8 0xD9#8]⟩ =
      .next ⟨[0x89#8, 0xD9#8, 0x8B#8, 0xC1#8], 4,
        [blockResult 0x89#8 0xD9#8, blockResult 0x8B#8 0xC1#8]⟩ := ⟨midRun_inv, rfl⟩
theorem witness_RunDecodesEveryPairInOrder :
    [0x89#8, 0xD9#8, 0x8B#8, 0xC1#8].length % 2 = 0 ∧
    [0x89#8, 0xD9#8, 0x8B#8, 0xC1#8][2 * 1]? = some 0x8B#8 ∧
    [0x89#8, 0xD9#8, 0x8B#8, 0xC1#8][2 * 1 + 1]? = some 0xC1#8 := by decide
theorem witness_OddStreamIsRefusedWhole : [0x89#8, 0xD9#8, 0x8B#8].length % 2 = 1 := by decide
/-- Both clauses: a state with an `Ok` line, and one with none. -/
theorem witness_StreamTextIsTheLinesJoined :
    ((⟨[0x89#8, 0xD9#8, 0x8B#8, 0xC1#8], 2, [blockResult 0x89#8 0xD9#8]⟩ : State).Inv ∧
      okLines (⟨[0x89#8, 0xD9#8, 0x8B#8, 0xC1#8], 2, [blockResult 0x89#8 0xD9#8]⟩ : State).results ≠ []) ∧
    twoPairs.Inv ∧ okLines twoPairs.results = [] :=
  ⟨⟨midRun_inv, by decide⟩, ⟨rfl, by decide, fun _ h => absurd h (Nat.not_lt_zero _)⟩, rfl⟩
theorem witness_PlacedWordIsTheNextPair : State.reset.pos % 2 = 0 := by decide
theorem witness_PortsCarryTheResult :
    decodeAndRender 0x89#8 0xD9#8 = .ok ['M', 'O', 'V', ' ', 'C', 'X', ' ', 'B', 'X'] ∧
    decodeAndRender 0xF0#8 0x00#8 = .err (.unrecognizedOpcode 0xF0#8) ∧
    decodeAndRender 0x8B#8 0x06#8 = .err (.unsupportedAddressingMode 0x06#8) := by decide
theorem witness_TextPortHoldsTheLineInAscii :
    (render ⟨.mov, .registerIsSource, .word, .bx, .cx⟩)[0]? = some 'M' ∧
    (render ⟨.mov, .registerIsSource, .word, .bx, .cx⟩)[8]? = some 'X' := by decide

end Sys2Proof.Tests
end

/-! # Family 10_state: records and words, the block behind a step, the frame, the reset and the ports -/

/-! ## Words and records (R29, R70, R80) -/

namespace Sys2Proof

theorem Register.inColumn_byte (r : Register) :
    r.inColumn .byte = true ↔ r ∈ [.al, .cl, .dl, .bl, .ah, .ch, .dh, .bh] :=
  List.contains_iff_mem

theorem Register.inColumn_word (r : Register) :
    r.inColumn .word = true ↔ r ∈ [.ax, .cx, .dx, .bx, .sp, .bp, .si, .di] :=
  List.contains_iff_mem

theorem InstructionRecord.wellFormed_iff (r : InstructionRecord) :
    r.wellFormed = true ↔ r.reg.inColumn r.size = true ∧ r.rm.inColumn r.size = true :=
  Bool.and_eq_true_iff

/-- A record whose registers the resolver answers for its size is well-formed. -/
theorem wellFormed_of_resolved (o : OpCode) (d : Direction) (z : OperandSize) (f g : BitVec 3) :
    InstructionRecord.wellFormed ⟨o, d, z, resolveRegister f z, resolveRegister g z⟩ = true :=
  (InstructionRecord.wellFormed_iff _).mpr
    ⟨resolveRegister_inColumn _ _, resolveRegister_inColumn _ _⟩

/-- A record the decoder produces is well-formed: both registers come from the column of its size. -/
theorem decodeRecord_wellFormed {b0 b1 : Byte} {r : InstructionRecord} (h : decodeRecord b0 b1 = .ok r) :
    r.wellFormed = true := by
  obtain ⟨-, -, rfl⟩ := decodeRecord_ok_cases h
  exact wellFormed_of_resolved _ _ _ _ _

/-! What the decoder reads in the two bytes the encoder writes. -/

@[simp] theorem fieldOpc_encode (i : Instr) : fieldOpc (encode i).1 = 0b100010#6 := by
  cases i <;> simp only [encode] <;> decide

@[simp] theorem decodeDirection_encode (i : Instr) :
    decodeDirection (encode i).1 = i.toRecord.direction := by
  cases i <;> simp only [encode, Instr.toRecord] <;> decide

@[simp] theorem decodeOperandSize_encode (i : Instr) :
    decodeOperandSize (encode i).1 = i.toRecord.size := by
  cases i <;> simp only [encode, Instr.toRecord] <;> decide

@[simp] theorem encode_snd (i : Instr) : (encode i).2 = encodeByte1 i.toRecord.reg i.toRecord.rm := by
  cases i <;> rfl

/-- Decoding the encoding of a well-formed instruction gives its record. -/
theorem decodeRecord_encode {i : Instr} (h : i.wellFormed = true) :
    decodeRecord (encode i).1 (encode i).2 = .ok i.toRecord := by
  obtain ⟨hreg, hrm⟩ := (InstructionRecord.wellFormed_iff _).mp h
  rw [decodeRecord_of_checks (fieldOpc_encode i) (by simp)]
  simp [resolveRegister_encodeRegister hreg, resolveRegister_encodeRegister hrm]

/-- The opcode pattern leaves `byte0` one bit for the direction and one for the size (R70). -/
theorem byte0_of_fieldOpc {b : Byte} (h : fieldOpc b = 0b100010#6) :
    b = 0x88#8 ∨ b = 0x89#8 ∨ b = 0x8A#8 ∨ b = 0x8B#8 := by
  revert b; decide

/-- `byte0` is rebuilt from the direction and the size decoded from it. -/
theorem encode_fst_of_fieldOpc {b : Byte} (h : fieldOpc b = 0b100010#6) (reg rm : Register) :
    (encode (Instr.ofRecord ⟨.mov, decodeDirection b, decodeOperandSize b, reg, rm⟩)).1 = b := by
  obtain rfl | rfl | rfl | rfl := byte0_of_fieldOpc h <;> rfl

/-- The two bytes are rebuilt from the record decoded from them. -/
theorem encode_of_decodeRecord {b0 b1 : Byte} {r : InstructionRecord} (h : decodeRecord b0 b1 = .ok r) :
    encode (Instr.ofRecord r) = (b0, b1) := by
  obtain ⟨hopc, hmod, rfl⟩ := decodeRecord_ok_cases h
  refine Prod.ext (encode_fst_of_fieldOpc hopc _ _) ?_
  simp [encodeByte1, byte1_of_fields hmod]

/-- A well-formed record is the decode of its encoding and of no other pair. -/
theorem existsUnique_decodeRecord {r : InstructionRecord} (h : r.wellFormed = true) :
    ∃! p : Byte × Byte, decodeRecord p.1 p.2 = .ok r := by
  refine ⟨encode (Instr.ofRecord r), ?_, fun p hp => (encode_of_decodeRecord hp).symm⟩
  have hi : (Instr.ofRecord r).wellFormed = true := by rwa [Instr.wellFormed, toRecord_ofRecord]
  simpa using decodeRecord_encode hi

/-! The well-formed records, counted by direction, size and the two 3-bit fields. -/

/-- The record with this direction and size whose registers the two fields name. -/
def recordOfFields (x : (Direction × OperandSize) × (BitVec 3 × BitVec 3)) : InstructionRecord :=
  ⟨.mov, x.1.1, x.1.2, resolveRegister x.2.1 x.1.2, resolveRegister x.2.2 x.1.2⟩

theorem recordOfFields_injective : Function.Injective recordOfFields := by
  rintro ⟨⟨d, z⟩, f, g⟩ ⟨⟨d', z'⟩, f', g'⟩ h
  simp only [recordOfFields, InstructionRecord.mk.injEq, true_and] at h
  obtain ⟨rfl, rfl, hreg, hrm⟩ := h
  have hf := congrArg encodeRegister hreg
  have hg := congrArg encodeRegister hrm
  simp only [encodeRegister_resolveRegister] at hf hg
  rw [hf, hg]

theorem wellFormed_iff_recordOfFields (r : InstructionRecord) :
    r.wellFormed = true ↔ ∃ x, recordOfFields x = r := by
  constructor
  · intro h
    obtain ⟨hreg, hrm⟩ := r.wellFormed_iff.mp h
    refine ⟨((r.direction, r.size), encodeRegister r.reg, encodeRegister r.rm), ?_⟩
    simp only [recordOfFields, resolveRegister_encodeRegister hreg, resolveRegister_encodeRegister hrm]
  · rintro ⟨x, rfl⟩
    exact wellFormed_of_resolved _ _ _ _ _

/-- The eight values of a 3-bit field. -/
def threeBitFields : List (BitVec 3) := [0#3, 1#3, 2#3, 3#3, 4#3, 5#3, 6#3, 7#3]

theorem mem_threeBitFields (f : BitVec 3) : f ∈ threeBitFields := by
  revert f; decide

/-- Every choice of direction, size and two fields. -/
def fieldChoices : List ((Direction × OperandSize) × (BitVec 3 × BitVec 3)) :=
  ([.registerIsSource, .registerIsDestination] ×ˢ [.byte, .word]) ×ˢ (threeBitFields ×ˢ threeBitFields)

theorem nodup_fieldChoices : fieldChoices.Nodup := by
  have hf : threeBitFields.Nodup := by decide
  exact List.Nodup.product (by decide) (hf.product hf)

theorem length_fieldChoices : fieldChoices.length = 256 := by
  have hf : threeBitFields.length = 8 := rfl
  simp only [fieldChoices, List.length_product, hf, List.length_cons, List.length_nil]

theorem mem_fieldChoices (x : (Direction × OperandSize) × (BitVec 3 × BitVec 3)) : x ∈ fieldChoices := by
  obtain ⟨⟨d, z⟩, f, g⟩ := x
  refine List.pair_mem_product.mpr
    ⟨?_, List.pair_mem_product.mpr ⟨mem_threeBitFields f, mem_threeBitFields g⟩⟩
  cases d <;> cases z <;> decide

theorem mem_map_recordOfFields (r : InstructionRecord) :
    r ∈ fieldChoices.map recordOfFields ↔ r.wellFormed = true := by
  simp [wellFormed_iff_recordOfFields, mem_fieldChoices]

/-- Settles O12: decoder and encoder are inverse to each other on the well-formed records, and these are
counted by their direction, size and fields (2 · 2 · 8 · 8). -/
theorem wordsCorrespondToWellFormedRecords : Obligations.WordsCorrespondToWellFormedRecords := by
  refine ⟨fun r => ?_, fun _ _ _ => decodeRecord_wellFormed, fun _ => existsUnique_decodeRecord,
    fieldChoices.map recordOfFields, nodup_fieldChoices.map recordOfFields_injective,
    by rw [List.length_map, length_fieldChoices], mem_map_recordOfFields⟩
  rw [InstructionRecord.wellFormed_iff]
  cases hz : r.size with
  | byte => simp only [Register.inColumn_byte, true_and, reduceCtorEq, false_and, or_false]
  | word => simp only [Register.inColumn_word, true_and, reduceCtorEq, false_and, false_or]

end Sys2Proof

/-! ## A step and the block (R20, R31, R49, R50, R156) -/

namespace Sys2Proof.Machine

/-- A step on the pair that `fetch` hands over delivers what the block, a pure function, gives for it:
the instruction and the decode error are two ways to the same delivery. -/
theorem step_of_fetch {s : State} {b0 b1 : Byte} (h : fetch s = .next (b0, b1)) :
    step s = .next (deliver (blockResult b0 b1) s) := by
  simp only [step, h, decode, blockResult]
  cases decodeRecord b0 b1 with
  | ok r => simp only [Result.map_ok, exec_eq, toRecord_ofRecord]
  | err e => rfl

/-- Everything a step that answers a next state can do. -/
theorem step_eq_next {s t : State} :
    step s = .next t ↔ ∃ b0 b1, fetch s = .next (b0, b1) ∧ t = deliver (blockResult b0 b1) s := by
  constructor
  · intro h
    cases hf : fetch s with
    | next pair =>
      rw [step_of_fetch hf] at h
      exact ⟨pair.1, pair.2, rfl, (Host.Outcome.next.inj h).symm⟩
    | fault f => simp only [step, hf, reduceCtorEq] at h
    | refused r => simp only [step, hf, reduceCtorEq] at h
  · rintro ⟨b0, b1, hf, rfl⟩
    exact step_of_fetch hf

/-- Settles O31: in a ready state `fetch` hands over the pair at the position. -/
theorem stepAddsTheBlockResultOfThePair : Obligations.StepAddsTheBlockResultOfThePair :=
  fun _ _ _ hs h0 h1 => step_of_fetch (fetch_eq_next.mpr ⟨hs, h0, h1⟩)

/-- Settles O32: both steps deliver the block's result of the pair they share. -/
theorem resultDependsOnThePairAlone : Obligations.ResultDependsOnThePairAlone := by
  intro s s' t t' h0 h1 ht ht'
  obtain ⟨b0, b1, hf, rfl⟩ := step_eq_next.mp ht
  obtain ⟨c0, c1, hf', rfl⟩ := step_eq_next.mp ht'
  obtain ⟨-, hb0, hb1⟩ := fetch_eq_next.mp hf
  obtain ⟨-, hc0, hc1⟩ := fetch_eq_next.mp hf'
  have hc0b0 : c0 = b0 := Option.some.inj (by rw [← hc0, ← h0, hb0])
  have hc1b1 : c1 = b1 := Option.some.inj (by rw [← hc1, ← h1, hb1])
  subst hc0b0 hc1b1
  exact ⟨blockResult c0 c1, deliver_out _ s, deliver_out _ s'⟩

/-- Settles O26: an instruction delivers one result, and a delivery appends. -/
theorem execChangesOnlyPositionAndNextResult : Obligations.ExecChangesOnlyPositionAndNextResult := by
  intro i s t h
  rw [exec_eq] at h
  obtain rfl := Host.Outcome.next.inj h
  refine ⟨deliver_stream _ s, deliver_pos _ s, by simp, fun k hk => ?_⟩
  rw [deliver_out, List.getElem?_append_left hk]

/-- A freshly loaded stream has no results yet, so its invariant speaks of no pair. -/
theorem State.inv_load (stream : List Byte) : (State.load stream).Inv where
  pos_eq := rfl
  pos_le := Nat.zero_le _
  out_eq _ hk := absurd hk (Nat.not_lt_zero _)

/-- Settles O34: reset is the load of the empty stream. -/
theorem invariantHoldsAtResetAndLoad : Obligations.InvariantHoldsAtResetAndLoad :=
  ⟨State.inv_load [], State.inv_load, reset_pos, reset_out, reset_stream⟩

end Sys2Proof.Machine

/-! ## The output ports (R36 to R38) -/

namespace Sys2Proof.Machine

/-- The port codes are the bits the decoder read (R37). -/
@[simp] theorem directionCode_decodeDirection (b : Byte) : directionCode (decodeDirection b) = fieldD b := by
  revert b; decide

@[simp] theorem sizeCode_decodeOperandSize (b : Byte) : sizeCode (decodeOperandSize b) = fieldW b := by
  revert b; decide

@[simp] theorem registerCode_resolveRegister (f : BitVec 3) (z : OperandSize) :
    registerCode (resolveRegister f z) = sizeCode z ++ f := by
  cases z <;> revert f <;> decide

/-- The ports for a pair that decodes: the record's codes and its line. -/
theorem blockPorts_of_ok {b0 b1 : Byte} {r : InstructionRecord} (h : decodeRecord b0 b1 = .ok r) :
    blockPorts b0 b1 = portsOf (.ok (outputOf r)) := by
  rw [blockPorts, blockResult, h, Result.map_ok]

/-- The ports for a pair that does not decode: its error. -/
theorem blockPorts_of_err {b0 b1 : Byte} {e : DecodeError} (h : decodeRecord b0 b1 = .err e) :
    blockPorts b0 b1 = portsOf (.err e) := by
  rw [blockPorts, blockResult, h, Result.map_err]

theorem decodeAndRender_eq_ok {b0 b1 : Byte} {t : Text} :
    decodeAndRender b0 b1 = .ok t ↔ ∃ r, decodeRecord b0 b1 = .ok r ∧ render r = t := by
  unfold decodeAndRender
  cases decodeRecord b0 b1 <;> simp

theorem decodeAndRender_eq_err {b0 b1 : Byte} {e : DecodeError} :
    decodeAndRender b0 b1 = .err e ↔ decodeRecord b0 b1 = .err e := by
  unfold decodeAndRender
  cases decodeRecord b0 b1 <;> simp

/-- No result has the status code 11 (R37). -/
theorem portsOf_status_ne (r : Result BlockOutput DecodeError) : (portsOf r).status ≠ 0b11#2 := by
  cases r with
  | ok o => simp [portsOf]
  | err e => cases e <;> simp [portsOf, errorStatus]

/-- Settles O39: the ports of a decoded record carry the bits it was decoded from; those of an error
carry the error. -/
theorem portsCarryTheResult : Obligations.PortsCarryTheResult := by
  intro b0 b1
  refine ⟨fun t ht => ?_, fun he => blockPorts_of_err (decodeAndRender_eq_err.mp he),
    fun he => blockPorts_of_err (decodeAndRender_eq_err.mp he), portsOf_status_ne _⟩
  obtain ⟨r, hr, rfl⟩ := decodeAndRender_eq_ok.mp ht
  rw [blockPorts_of_ok hr]
  obtain ⟨-, -, rfl⟩ := decodeRecord_ok_cases hr
  simp [portsOf, outputOf, opcodeCode]

/-! ### The text port (R36, R137) -/

/-- One more character moves the line up by one byte and takes the lowest byte. -/
theorem textCode_concat (t : Text) (c : Char) :
    textCode (t ++ [c]) = textCode t <<< 8 ||| (charCode c).setWidth 72 := by
  simp [textCode]

/-- The lowest byte after a character is put in. -/
theorem extract_low_shiftLeft_or (x : BitVec 72) (b : Byte) :
    (x <<< 8 ||| b.setWidth 72).extractLsb' 0 8 = b := by
  ext j hj
  have hport : j < 72 := by omega
  simp [hj, hport]

/-- The bytes above it are those of before, each one place higher. -/
theorem extract_high_shiftLeft_or (x : BitVec 72) (b : Byte) {k : Nat} (hk : k < 8) :
    (x <<< 8 ||| b.setWidth 72).extractLsb' (8 * (k + 1)) 8 = x.extractLsb' (8 * k) 8 := by
  ext j hj
  have hlow : b.getLsbD (8 * (k + 1) + j) = false := BitVec.getLsbD_of_ge _ _ (by omega)
  have hport : 8 * (k + 1) + j < 72 := by omega
  have hshift : ¬ 8 * (k + 1) + j < 8 := by omega
  have hsub : 8 * (k + 1) + j - 8 = 8 * k + j := by omega
  simp only [BitVec.getElem_extractLsb', BitVec.getLsbD_or, BitVec.getLsbD_shiftLeft,
    BitVec.getLsbD_setWidth, hlow, hport, hshift, hsub, decide_true, decide_false, Bool.not_false,
    Bool.and_false, Bool.true_and, Bool.or_false]

/-- Character `i` of a text that fits the port has as many bytes below it as characters after it. -/
theorem extract_textCode (t : Text) {i : Nat} {c : Char} (hlen : t.length ≤ 9) (hc : t[i]? = some c) :
    (textCode t).extractLsb' (8 * (t.length - 1 - i)) 8 = charCode c := by
  induction t using List.reverseRecOn with
  | nil => simp at hc
  | append_singleton t d ih =>
    rw [List.length_append, List.length_singleton] at hlen ⊢
    rw [textCode_concat]
    obtain hi | rfl | hi := lt_trichotomy i t.length
    · rw [List.getElem?_append_left hi] at hc
      rw [show t.length + 1 - 1 - i = (t.length - 1 - i) + 1 by omega,
        extract_high_shiftLeft_or _ _ (by omega)]
      exact ih (by omega) hc
    · obtain rfl : d = c := by simpa using hc
      simpa using extract_low_shiftLeft_or (textCode t) (charCode d)
    · rw [List.getElem?_eq_none (by simp; omega)] at hc
      cases hc

@[simp] theorem name_length (r : Register) : (name r).length = 2 := by
  cases r <;> rfl

@[simp] theorem mnemonic_length (o : OpCode) : (mnemonic o).length = 3 := by
  cases o; rfl

/-- A line fills the nine bytes of the text port (R136). -/
theorem render_length (r : InstructionRecord) : (render r).length = 9 := by
  simp [render]

/-- The fourteen characters of a line with their codes (R137). -/
def lineCharCodes : List (Char × Byte) :=
  [(' ', 0x20#8), ('A', 0x41#8), ('B', 0x42#8), ('C', 0x43#8), ('D', 0x44#8), ('H', 0x48#8),
   ('I', 0x49#8), ('L', 0x4C#8), ('M', 0x4D#8), ('O', 0x4F#8), ('P', 0x50#8), ('S', 0x53#8),
   ('V', 0x56#8), ('X', 0x58#8)]

theorem charCode_of_mem_mnemonic {o : OpCode} : ∀ c ∈ mnemonic o, (c, charCode c) ∈ lineCharCodes := by
  cases o; simp [mnemonic, charCode, lineCharCodes]

theorem charCode_of_mem_name {r : Register} : ∀ c ∈ name r, (c, charCode c) ∈ lineCharCodes := by
  cases r <;> simp [name, charCode, lineCharCodes]

/-- A line's characters come from the mnemonic, the spaces and the two names. -/
theorem charCode_of_mem_render {r : InstructionRecord} {c : Char} (h : c ∈ render r) :
    (c, charCode c) ∈ lineCharCodes := by
  simp only [render, List.mem_append, List.mem_singleton] at h
  obtain (((h | rfl) | h) | rfl) | h := h
  · exact charCode_of_mem_mnemonic c h
  · decide
  · exact charCode_of_mem_name c h
  · decide
  · exact charCode_of_mem_name c h

/-- Settles O40: a line has nine characters, so character `i` has `8 - i` bytes below it. -/
theorem textPortHoldsTheLineInAscii : Obligations.TextPortHoldsTheLineInAscii := by
  intro r i c hc
  have hlen := render_length r
  have hi : i < 9 := hlen ▸ (List.getElem?_eq_some_iff.mp hc).choose
  have hcode := extract_textCode (render r) hlen.le hc
  rw [hlen, show 8 * (9 - 1 - i) = 64 - 8 * i by omega] at hcode
  exact ⟨hcode, charCode_of_mem_render (List.mem_of_getElem? hc)⟩

end Sys2Proof.Machine

/-! # Family 20_memory: the run over a stream, the text of its results, the placed word -/

/-! ## A step that fetch decides (R43, R45, R46) -/

namespace Sys2Proof.Machine

/-- A stream of odd length has no step (R45). -/
theorem step_of_odd_stream {s : State} (h : s.stream.length % 2 = 1) : step s = .refused .oddStream := by
  simp only [step, fetch_of_odd_stream h]

/-- Settles O36: the first step of the run is refused already. -/
theorem oddStreamIsRefusedWhole : Obligations.OddStreamIsRefusedWhole :=
  fun stream k h => run_succ_of_refused (s := State.load stream) k (step_of_odd_stream h)

/-- Settles O27: in a ready state `fetch` hands over the pair that decodes to the instruction. -/
theorem stepRunsTheDecodedInstruction : Obligations.StepRunsTheDecodedInstruction := by
  intro s b0 b1 i hs h0 h1 hi
  have hf : fetch s = .next (b0, b1) := fetch_eq_next.mpr ⟨hs, h0, h1⟩
  simp only [step, hf, hi]

/-- The stream of `withFetchWord` holds the two bytes of a 16-bit word at the position. -/
theorem withFetchWord_instrWord_stream (s : State) (b0 b1 : Byte) :
    (s.withFetchWord 16 (instrWord b0 b1).toNat).stream = placePair s.stream s.pos (b0, b1) := by
  rw [withFetchWord_stream, Nat.mod_eq_of_lt (instrWord b0 b1).isLt, BitVec.ofNat_toNat,
    BitVec.setWidth_eq, wordBytes_instrWord]

/-- Settles O38: the placed pair stands at the position, in a stream of even length. -/
theorem placedWordIsTheNextPair : Obligations.PlacedWordIsTheNextPair := by
  intro s b0 b1 hpos
  refine step_of_fetch (fetch_of_pair ?_ hpos ?_) <;> rw [withFetchWord_instrWord_stream]
  · rw [placePair_length]; omega
  · exact bytesAt_placePair s.stream s.pos (b0, b1)

end Sys2Proof.Machine

/-! ## The invariant along a run (R31, R43, R50) -/

namespace Sys2Proof.Machine

/-- Delivering the block's result of the pair at the position keeps the invariant: that pair is number
`out.length`, and its result takes place `out.length`. -/
theorem State.Inv.deliver_blockResult {s : State} {b0 b1 : Byte} (hs : s.Inv)
    (hf : fetch s = .next (b0, b1)) :
    (deliver (blockResult b0 b1) s).Inv := by
  obtain ⟨⟨-, -, hpos⟩, h0, h1⟩ := fetch_eq_next.mp hf
  refine ⟨?_, hpos, fun k hk => ?_⟩
  · rw [deliver_pos, deliver_out, List.length_append, List.length_singleton, hs.pos_eq, Nat.mul_succ]
  · rw [deliver_out] at hk ⊢
    rw [List.length_append, List.length_singleton] at hk
    obtain hlt | rfl := Nat.lt_succ_iff_lt_or_eq.mp hk
    · rw [List.getElem?_append_left hlt]
      exact hs.out_eq k hlt
    · refine ⟨b0, b1, ?_, List.getElem?_concat_length⟩
      rw [pairAt, ← hs.pos_eq]
      exact bytesAt_eq_some.mpr ⟨h0, h1⟩

/-- Settles O33: a step that answers a next state delivers the block's result of the fetched pair. -/
theorem stepKeepsTheRunInvariant : Obligations.StepKeepsTheRunInvariant := by
  intro s t hs ht
  obtain ⟨b0, b1, hf, rfl⟩ := step_eq_next.mp ht
  exact hs.deliver_blockResult hf

/-- A run can take as many steps as there are pairs left, and every step moves it one pair on. -/
theorem State.Inv.exists_run (k : Nat) {s : State} (hs : s.Inv) (heven : s.stream.length % 2 = 0)
    (hk : s.pos + 2 * k ≤ s.stream.length) :
    ∃ t : State, Sys2Proof.core.run k s = .next t ∧ t.Inv ∧ t.stream = s.stream ∧ t.pos = s.pos + 2 * k := by
  induction k generalizing s with
  | zero => exact ⟨s, run_zero s, hs, rfl, rfl⟩
  | succ k ih =>
    have hready : s.Ready := ⟨heven, by rw [hs.pos_eq]; omega, by omega⟩
    obtain ⟨b0, b1, hb⟩ := hready.pair
    have hf : fetch s = .next (b0, b1) := fetch_eq_next.mpr ⟨hready, hb⟩
    obtain ⟨t, hrun, ht, hstream, hpos⟩ :=
      ih (hs.deliver_blockResult hf) heven (by rw [deliver_pos, deliver_stream]; omega)
    refine ⟨t, ?_, ht, hstream, ?_⟩
    · rw [run_succ_of_next k (step_of_fetch hf), hrun]
    · rw [hpos, deliver_pos]; omega

/-- The text of the block's result is the spec's own function of the pair (R156). -/
theorem map_text_blockResult (b0 b1 : Byte) :
    (blockResult b0 b1).map BlockOutput.text = decodeAndRender b0 b1 := by
  unfold blockResult decodeAndRender
  cases decodeRecord b0 b1 <;> rfl

@[simp] theorem results_length (s : State) : s.results.length = s.out.length :=
  List.length_map _

/-- Under the invariant, result `k` is that of pair `k`. -/
theorem State.Inv.results_getElem? {s : State} (hs : s.Inv) {k : Nat} (hk : k < s.out.length) :
    ∃ b0 b1, pairAt s.stream k = some (b0, b1) ∧ s.results[k]? = some (decodeAndRender b0 b1) := by
  obtain ⟨b0, b1, hpair, hout⟩ := hs.out_eq k hk
  refine ⟨b0, b1, hpair, ?_⟩
  rw [State.results, List.getElem?_map, hout, Option.map_some, map_text_blockResult]

/-- Settles O35: the run from the load keeps the invariant up to the end of the stream, where the results
are those of all its pairs. -/
theorem runDecodesEveryPairInOrder : Obligations.RunDecodesEveryPairInOrder := by
  intro stream heven
  have hlen : 2 * (stream.length / 2) = stream.length := by omega
  obtain ⟨t, hrun, ht, hstream, hpos⟩ :=
    (State.inv_load stream).exists_run (stream.length / 2) heven (by simp [hlen])
  rw [load_stream] at hstream
  rw [load_pos, hlen, Nat.zero_add] at hpos
  have hout : t.out.length = stream.length / 2 := by
    have hcount := ht.pos_eq
    omega
  refine ⟨t, hrun, hpos, hstream, by rw [results_length, hout], fun k b0 b1 h0 h1 => ?_⟩
  have hk : 2 * k + 1 < stream.length := (List.getElem?_eq_some_iff.mp h1).choose
  obtain ⟨c0, c1, hpair, hres⟩ := ht.results_getElem? (k := k) (by omega)
  rw [hstream, pairAt, bytesAt_eq_some.mpr ⟨h0, h1⟩] at hpair
  cases hpair
  exact hres

end Sys2Proof.Machine

/-! ## The text of a stream (R50, D11) -/

namespace Sys2Proof.Machine

theorem mem_okLines {rs : List (Result Text DecodeError)} {t : Text} : t ∈ okLines rs ↔ .ok t ∈ rs := by
  rw [okLines, List.mem_filterMap]
  constructor
  · rintro ⟨r, hr, ht⟩
    cases r with
    | ok u => rwa [Option.some.inj ht] at hr
    | err e => cases ht
  · exact fun h => ⟨_, h, rfl⟩

/-- Under the invariant every line of a stream is the line of some record. -/
theorem State.Inv.line_eq_render {s : State} (hs : s.Inv) {t : Text} (ht : t ∈ okLines s.results) :
    ∃ r, render r = t := by
  obtain ⟨k, hk⟩ := List.mem_iff_getElem?.mp (mem_okLines.mp ht)
  have hlt : k < s.out.length := results_length s ▸ (List.getElem?_eq_some_iff.mp hk).choose
  obtain ⟨b0, b1, -, hres⟩ := hs.results_getElem? hlt
  obtain ⟨r, -, hr⟩ := decodeAndRender_eq_ok.mp (Option.some.inj (hres.symm.trans hk))
  exact ⟨r, hr⟩

/-- A line holds no line feed (R141): its characters are among the fourteen of R137. -/
theorem lineSeparator_notMem_render (r : InstructionRecord) : lineSeparator ∉ render r := by
  intro h
  have hcode := charCode_of_mem_render h
  revert hcode; decide

theorem render_ne_nil (r : InstructionRecord) : render r ≠ [] := by
  intro h
  have hlen := render_length r
  rw [h] at hlen
  cases hlen

/-- Joined nonempty lines end as the last of them does. -/
theorem getLast?_intercalate {α : Type} (sep : List α) {ls : List (List α)} (hls : ls ≠ [])
    (hne : ∀ l ∈ ls, l ≠ []) : (sep.intercalate ls).getLast? = (ls.getLast hls).getLast? := by
  induction ls with
  | nil => exact absurd rfl hls
  | cons l ls ih =>
    cases ls with
    | nil => rw [List.intercalate_singleton, List.getLast_singleton]
    | cons l' ls =>
      have htail := ih (List.cons_ne_nil _ _) fun m hm => hne m (List.mem_cons_of_mem _ hm)
      have hlast := hne _ (List.mem_cons_of_mem l (List.getLast_mem (List.cons_ne_nil l' ls)))
      rw [List.intercalate_cons_cons, List.getLast?_append, htail, List.getLast_cons_cons,
        List.getLast?_eq_some_getLast hlast, Option.some_or]

/-- Settles O37: the lines of a run are lines of records, so none is empty and none holds the separator. -/
theorem streamTextIsTheLinesJoined : Obligations.StreamTextIsTheLinesJoined := by
  intro s hs
  have hsep : ∀ l ∈ okLines s.results, lineSeparator ∉ l := by
    intro l hl
    obtain ⟨r, rfl⟩ := hs.line_eq_render hl
    exact lineSeparator_notMem_render r
  have hne : ∀ l ∈ okLines s.results, l ≠ [] := by
    intro l hl
    obtain ⟨r, rfl⟩ := hs.line_eq_render hl
    exact render_ne_nil r
  refine ⟨fun hnil => ?_, List.splitOn_intercalate lineSeparator hsep, fun hlines hlast => ?_⟩
  · rw [streamText, hnil]; rfl
  · rw [streamText, getLast?_intercalate _ hlines hne] at hlast
    exact hsep _ (List.getLast_mem hlines) (List.mem_of_getLast? hlast)

end Sys2Proof.Machine

/-! # Family 30_encoding: decoder and encoder as inverses, the errors, the valid words and their masks -/

/-! ## The decoder and the encoder are inverse to each other (R80, R121, R150) -/

namespace Sys2Proof

/-- A pair decodes to an instruction when it decodes to that instruction's record. -/
theorem decode_eq_ok {b0 b1 : Byte} {i : Instr} :
    decode b0 b1 = .ok i ↔ decodeRecord b0 b1 = .ok i.toRecord := by
  unfold decode
  cases decodeRecord b0 b1 with
  | ok r =>
    simp only [Result.map_ok, Result.ok.injEq]
    exact ⟨fun h => by rw [← h, toRecord_ofRecord], fun h => by rw [h, ofRecord_toRecord]⟩
  | err e => simp only [Result.map_err, reduceCtorEq]

theorem decode_eq_err {b0 b1 : Byte} {e : DecodeError} :
    decode b0 b1 = .err e ↔ decodeRecord b0 b1 = .err e := by
  unfold decode
  cases decodeRecord b0 b1 with
  | ok r => simp only [Result.map_ok, reduceCtorEq]
  | err e' => rw [Result.map_err, Result.err.injEq, Result.err.injEq]

/-- Settles O22: the record of a well-formed instruction survives its encoding. -/
theorem decodeInvertsEncode : Obligations.DecodeInvertsEncode :=
  fun _ h => decode_eq_ok.mpr (decodeRecord_encode h)

/-- The encoder rebuilds the two bytes an instruction was decoded from. -/
theorem encode_of_decode {b0 b1 : Byte} {i : Instr} (h : decode b0 b1 = .ok i) : encode i = (b0, b1) := by
  simpa using encode_of_decodeRecord (decode_eq_ok.mp h)

/-- Settles O23: the bytes are rebuilt from the record, whose registers are of its size's column. -/
theorem encodeInvertsDecode : Obligations.EncodeInvertsDecode :=
  fun _ _ _ h => ⟨encode_of_decode h, decodeRecord_wellFormed (decode_eq_ok.mp h)⟩

end Sys2Proof

/-! ## The valid words and the two errors (R72 to R74, R174) -/

namespace Sys2Proof

/-- The decode of a pair that passes both checks (R150). -/
theorem decode_of_checks {b0 b1 : Byte} (h0 : fieldOpc b0 = 0b100010#6) (h1 : fieldMod b1 = 0b11#2) :
    decode b0 b1 = .ok (Instr.ofRecord
      ⟨.mov, decodeDirection b0, decodeOperandSize b0,
        resolveRegister (fieldReg b1) (decodeOperandSize b0),
        resolveRegister (fieldRm b1) (decodeOperandSize b0)⟩) := by
  rw [decode, decodeRecord_of_checks h0 h1, Result.map_ok]

theorem exists_decode_eq_ok_iff {b0 b1 : Byte} :
    (∃ i, decode b0 b1 = .ok i) ↔ fieldOpc b0 = 0b100010#6 ∧ fieldMod b1 = 0b11#2 := by
  constructor
  · rintro ⟨i, hi⟩
    obtain ⟨hopc, hmod, -⟩ := decodeRecord_ok_cases (decode_eq_ok.mp hi)
    exact ⟨hopc, hmod⟩
  · rintro ⟨hopc, hmod⟩
    exact ⟨_, decode_of_checks hopc hmod⟩

/-- Which error a pair gives: the opcode's before the mode's (R174). -/
theorem decode_eq_err_iff {b0 b1 : Byte} {e : DecodeError} :
    decode b0 b1 = .err e ↔
      (fieldOpc b0 ≠ 0b100010#6 ∧ e = .unrecognizedOpcode b0) ∨
      (fieldOpc b0 = 0b100010#6 ∧ fieldMod b1 ≠ 0b11#2 ∧ e = .unsupportedAddressingMode b1) := by
  rw [decode_eq_err]
  by_cases hopc : fieldOpc b0 = 0b100010#6
  · by_cases hmod : fieldMod b1 = 0b11#2
    · simp [decodeRecord_of_checks hopc hmod, hopc, hmod]
    · simp [decodeRecord_of_bad_mode hopc hmod, hopc, hmod, eq_comm]
  · simp [decodeRecord_of_bad_opcode b1 hopc, hopc, eq_comm]

/-- The bytes with the opcode pattern `100010`, as a range (R72). -/
theorem fieldOpc_eq_mov_iff_range (b : Byte) :
    fieldOpc b = 0b100010#6 ↔ 0x88 ≤ b.toNat ∧ b.toNat ≤ 0x8B := by
  revert b; decide

/-- The bytes with MOD = 11, as a range (R73). -/
theorem fieldMod_eq_direct_iff_range (b : Byte) : fieldMod b = 0b11#2 ↔ 0xC0 ≤ b.toNat := by
  revert b; decide

/-- Settles O19: which check fails decides the result, and each check is a range of its byte. -/
theorem everyPairIsAValidWordOrOneError : Obligations.EveryPairIsAValidWordOrOneError := by
  intro b0 b1
  refine ⟨?_, ?_, ?_, fun e he => ?_⟩
  · simp only [decode_eq_err_iff, ne_eq, fieldOpc_eq_mov_iff_range, reduceCtorEq, and_true, and_false,
      or_false]
    omega
  · simp only [decode_eq_err_iff, ne_eq, fieldOpc_eq_mov_iff_range, fieldMod_eq_direct_iff_range,
      reduceCtorEq, and_true, and_false, false_or]
    omega
  · rw [exists_decode_eq_ok_iff, fieldOpc_eq_mov_iff_range, fieldMod_eq_direct_iff_range]
  · obtain ⟨-, rfl⟩ | ⟨-, -, rfl⟩ := decode_eq_err_iff.mp he
    · exact .inl rfl
    · exact .inr rfl

end Sys2Proof

/-! ## Masks and match values (R10, R79, R80) -/

namespace Sys2Proof

theorem instrWord_inj {b0 b1 c0 c1 : Byte} : instrWord b0 b1 = instrWord c0 c1 ↔ b0 = c0 ∧ b1 = c1 := by
  constructor
  · intro h
    simpa using congrArg wordBytes h
  · rintro ⟨rfl, rfl⟩
    rfl

theorem instrWord_toNat (b0 b1 : Byte) : (instrWord b0 b1).toNat = 256 * b0.toNat + b1.toNat := by
  rw [instrWord, BitVec.toNat_append, ← Nat.shiftLeft_add_eq_or_of_lt b1.isLt, Nat.shiftLeft_eq]
  omega

/-- A mask of a word acts on the two bytes apart. -/
theorem instrWord_and (b0 b1 m0 m1 : Byte) :
    instrWord b0 b1 &&& instrWord m0 m1 = instrWord (b0 &&& m0) (b1 &&& m1) :=
  BitVec.and_append

theorem instrWord_and_eq_iff {b0 b1 m0 m1 k0 k1 : Byte} :
    instrWord b0 b1 &&& instrWord m0 m1 = instrWord k0 k1 ↔ b0 &&& m0 = k0 ∧ b1 &&& m1 = k1 := by
  rw [instrWord_and, instrWord_inj]

theorem fieldOpc_eq_mov_iff_mask (b : Byte) : fieldOpc b = 0b100010#6 ↔ b &&& 0xFC#8 = 0x88#8 := by
  revert b; decide

theorem fieldMod_eq_direct_iff_mask (b : Byte) : fieldMod b = 0b11#2 ↔ b &&& 0xC0#8 = 0xC0#8 := by
  revert b; decide

/-- The mask of the valid words holds the OPC and MOD bits (R79). -/
theorem exists_decode_eq_ok_iff_mask {b0 b1 : Byte} :
    (∃ i, decode b0 b1 = .ok i) ↔ instrWord b0 b1 &&& 0xFCC0#16 = 0x88C0#16 := by
  have hmask : 0xFCC0#16 = instrWord 0xFC#8 0xC0#8 := rfl
  have hmatch : 0x88C0#16 = instrWord 0x88#8 0xC0#8 := rfl
  rw [exists_decode_eq_ok_iff, fieldOpc_eq_mov_iff_mask, fieldMod_eq_direct_iff_mask, hmask, hmatch,
    instrWord_and_eq_iff]

/-- The mask of a row holds all of `byte0` and the MOD bits (R80). -/
theorem instrWord_and_rowMask_iff {b0 b1 k0 : Byte} :
    instrWord b0 b1 &&& 0xFFC0#16 = instrWord k0 0xC0#8 ↔ b0 = k0 ∧ fieldMod b1 = 0b11#2 := by
  have hmask : 0xFFC0#16 = instrWord 0xFF#8 0xC0#8 := rfl
  have hall : b0 &&& 0xFF#8 = b0 := BitVec.and_allOnes
  rw [hmask, instrWord_and_eq_iff, fieldMod_eq_direct_iff_mask, hall]

/-- The row of a form: when the direction and the size read from `k0` select `form`, the pairs that decode
to `form` are those with `k0` for their first byte and MOD = 11. -/
theorem exists_decode_form_iff {k0 : Byte} {form : Register → Register → Instr}
    (hopc : fieldOpc k0 = 0b100010#6)
    (hform : ∀ reg rm, Instr.ofRecord ⟨.mov, decodeDirection k0, decodeOperandSize k0, reg, rm⟩ = form reg rm)
    (b0 b1 : Byte) :
    (∃ reg rm, decode b0 b1 = .ok (form reg rm)) ↔
      instrWord b0 b1 &&& 0xFFC0#16 = instrWord k0 0xC0#8 := by
  rw [instrWord_and_rowMask_iff]
  constructor
  · rintro ⟨reg, rm, h⟩
    have hbyte0 : k0 = b0 := by
      rw [← encode_fst_of_fieldOpc hopc reg rm, hform, encode_of_decode h]
    exact ⟨hbyte0.symm, (exists_decode_eq_ok_iff.mp ⟨_, h⟩).2⟩
  · rintro ⟨rfl, hmod⟩
    exact ⟨_, _, (decode_of_checks hopc hmod).trans (congrArg Result.ok (hform _ _))⟩

/-- Settles O21: each form has one first byte, and its match value is that byte followed by MOD = 11. -/
theorem eachRowMatchesItsMask : Obligations.EachRowMatchesItsMask := fun b0 b1 =>
  ⟨exists_decode_form_iff (k0 := 0x88#8) rfl (fun _ _ => rfl) b0 b1,
   exists_decode_form_iff (k0 := 0x89#8) rfl (fun _ _ => rfl) b0 b1,
   exists_decode_form_iff (k0 := 0x8A#8) rfl (fun _ _ => rfl) b0 b1,
   exists_decode_form_iff (k0 := 0x8B#8) rfl (fun _ _ => rfl) b0 b1⟩

end Sys2Proof

/-! ## The valid words, counted by direction, size and the two 3-bit fields (R79) -/

namespace Sys2Proof

/-- The pair with this direction and size and with these two fields. -/
def pairOfFields (x : (Direction × OperandSize) × (BitVec 3 × BitVec 3)) : Byte × Byte :=
  encode (Instr.ofRecord (recordOfFields x))

theorem decodeRecord_pairOfFields (x : (Direction × OperandSize) × (BitVec 3 × BitVec 3)) :
    decodeRecord (pairOfFields x).1 (pairOfFields x).2 = .ok (recordOfFields x) := by
  have hwf : (Instr.ofRecord (recordOfFields x)).wellFormed = true := by
    rw [Instr.wellFormed, toRecord_ofRecord]
    exact (wellFormed_iff_recordOfFields _).mpr ⟨x, rfl⟩
  rw [pairOfFields, decodeRecord_encode hwf, toRecord_ofRecord]

theorem pairOfFields_injective : Function.Injective pairOfFields := by
  intro x y h
  have hx := decodeRecord_pairOfFields x
  rw [h, decodeRecord_pairOfFields y] at hx
  exact (recordOfFields_injective (Result.ok.inj hx)).symm

theorem exists_decode_eq_ok_iff_pairOfFields (p : Byte × Byte) :
    (∃ i, decode p.1 p.2 = .ok i) ↔ ∃ x, pairOfFields x = p := by
  constructor
  · rintro ⟨i, hi⟩
    have hr := decode_eq_ok.mp hi
    obtain ⟨x, hx⟩ := (wellFormed_iff_recordOfFields _).mp (decodeRecord_wellFormed hr)
    exact ⟨x, by rw [pairOfFields, hx, encode_of_decodeRecord hr]⟩
  · rintro ⟨x, rfl⟩
    exact ⟨_, by rw [decode, decodeRecord_pairOfFields, Result.map_ok]⟩

theorem mem_map_pairOfFields (p : Byte × Byte) :
    p ∈ fieldChoices.map pairOfFields ↔ ∃ i, decode p.1 p.2 = .ok i := by
  simp [exists_decode_eq_ok_iff_pairOfFields, mem_fieldChoices]

/-- A valid word lies between the first word of the first row and the last word of the last. -/
theorem instrWord_bounds_of_decode {b0 b1 : Byte} {i : Instr} (h : decode b0 b1 = .ok i) :
    0x88C0 ≤ (instrWord b0 b1).toNat ∧ (instrWord b0 b1).toNat ≤ 0x8BFF := by
  obtain ⟨hopc, hmod⟩ := exists_decode_eq_ok_iff.mp ⟨i, h⟩
  obtain ⟨hlow, hhigh⟩ := (fieldOpc_eq_mov_iff_range b0).mp hopc
  have hdirect := (fieldMod_eq_direct_iff_range b1).mp hmod
  have hbyte1 := b1.isLt
  rw [instrWord_toNat]
  omega

/-- Settles O20: the mask holds the bits both checks read, and the words are counted by the choices of
direction, size and fields that the other bits leave (2 · 2 · 8 · 8). -/
theorem validWordsAreTwoHundredFiftySix : Obligations.ValidWordsAreTwoHundredFiftySix :=
  ⟨fun _ _ => exists_decode_eq_ok_iff_mask, fun _ _ _ => instrWord_bounds_of_decode,
    fieldChoices.map pairOfFields, nodup_fieldChoices.map pairOfFields_injective,
    by rw [List.length_map, length_fieldChoices], mem_map_pairOfFields⟩

end Sys2Proof

/-! # Family 40_bitfield_extractor: the values of `Extract`, its bits, and the six fields -/

/-! ## The value of a bit field: division and remainder, shift and mask (R90, R91) -/

namespace Sys2Proof

/-- `extract` answers exactly in range. -/
theorem extract_of_le {start width : Nat} (h : start + width ≤ 8) (b : Byte) :
    extract b start width = some (extractBits b start width).toNat := by
  simp only [extract, extractInRange, h, decide_true, if_true]

theorem extract_of_lt {start width : Nat} (h : 8 < start + width) (b : Byte) :
    extract b start width = none := by
  simp only [extract, extractInRange, Nat.not_le.mpr h, decide_false, Bool.false_eq_true, if_false]

/-- Division and remainder: R91's formula on natural numbers. -/
theorem extractBits_toNat (b : Byte) (start width : Nat) :
    (extractBits b start width).toNat = b.toNat / 2 ^ (8 - start - width) % 2 ^ width := by
  rw [extractBits, BitVec.toNat_setWidth, BitVec.toNat_ushiftRight, Nat.shiftRight_eq_div_pow]

/-- Shift and mask: R91's formula on words. -/
theorem extractBits_toNat_eq_and (b : Byte) (start width : Nat) :
    (extractBits b start width).toNat =
      (b.toNat >>> (8 - start - width)) &&& ((1 <<< width) - 1) := by
  rw [extractBits_toNat, Nat.one_shiftLeft, Nat.and_two_pow_sub_one_eq_mod,
    Nat.shiftRight_eq_div_pow]

/-- Bit `j` of the range, counted from its first, has weight `2 ^ (width - 1 - j)` (R90). -/
theorem extractBits_getLsbD {start width j : Nat} (h : start + width ≤ 8) (hj : j < width) (b : Byte) :
    (extractBits b start width).getLsbD (width - 1 - j) = b.getMsbD (start + j) := by
  have hlsb : width - 1 - j < width := by omega
  have hmsb : start + j < 8 := by omega
  have hplace : 8 - start - width + (width - 1 - j) = 8 - 1 - (start + j) := by omega
  simp only [extractBits, BitVec.getLsbD_setWidth, BitVec.getLsbD_ushiftRight, BitVec.getMsbD,
    hlsb, hmsb, hplace, decide_true, Bool.true_and]

/-- Settles O1: the value of the field is below `2 ^ width`, and its bits are those of the range. -/
theorem extractReturnsTheRangeRightAligned : Obligations.ExtractReturnsTheRangeRightAligned := by
  intro b start width h
  refine ⟨_, extract_of_le h b, (extractBits b start width).isLt, fun j hj => ?_⟩
  rw [BitVec.testBit_toNat, extractBits_getLsbD h hj]

/-- Settles O2: the LSB-0 slice has as many bits as the range. -/
theorem extractIsShiftAndMask : Obligations.ExtractIsShiftAndMask := by
  intro b start width h
  rw [extract_of_le h]
  refine ⟨congrArg some (extractBits_toNat_eq_and b start width),
    congrArg some (extractBits_toNat b start width), fun hw => ?_⟩
  have hslice : 7 - start - (8 - start - width) + 1 = width := by omega
  rw [extractBits_toNat, Nat.shiftRight_eq_div_pow, hslice]

end Sys2Proof

/-! ## Corner cases and adjacent ranges (R92) -/

namespace Sys2Proof

/-- A range that begins at the first bit needs no mask. -/
theorem extractBits_zero_start_toNat {width : Nat} (h : width ≤ 8) (b : Byte) :
    (extractBits b 0 width).toNat = b.toNat >>> (8 - width) := by
  have hlt : b.toNat / 2 ^ (8 - width) < 2 ^ width := by
    rw [Nat.div_lt_iff_lt_mul (Nat.two_pow_pos _), ← Nat.pow_add, Nat.add_sub_cancel' h]
    exact b.isLt
  rw [extractBits_toNat, Nat.sub_zero, Nat.mod_eq_of_lt hlt, Nat.shiftRight_eq_div_pow]

theorem extractBits_zero (start width : Nat) : extractBits 0x00#8 start width = 0#width := by
  rw [extractBits, BitVec.zero_ushiftRight, BitVec.setWidth_zero]

theorem extractBits_allOnes {start width : Nat} (h : start + width ≤ 8) :
    extractBits 0xFF#8 start width = BitVec.allOnes width := by
  ext j hj
  have hin : 8 - start - width + j < 8 := by omega
  have hones : 0xFF#8 = BitVec.allOnes 8 := rfl
  simp only [extractBits, hones, BitVec.getElem_setWidth, BitVec.getLsbD_ushiftRight,
    BitVec.getLsbD_allOnes, BitVec.getElem_allOnes, hin, decide_true]

/-- Two adjacent ranges concatenate: R92's law on values. -/
theorem extractBits_add_toNat {start w1 w2 : Nat} (h : start + (w1 + w2) ≤ 8) (b : Byte) :
    (extractBits b start (w1 + w2)).toNat =
      (extractBits b start w1).toNat * 2 ^ w2 + (extractBits b (start + w1) w2).toNat := by
  have hhigh : 8 - start - w1 = 8 - start - (w1 + w2) + w2 := by omega
  have hlow : 8 - (start + w1) - w2 = 8 - start - (w1 + w2) := by omega
  simp only [extractBits_toNat, hhigh, hlow]
  rw [Nat.pow_add 2 (8 - start - (w1 + w2)) w2, ← Nat.div_div_eq_div_mul, Nat.add_comm w1 w2,
    Nat.pow_add, Nat.mod_mul, Nat.mul_comm, Nat.add_comm]

/-- Settles O3: the formula at the corner values, the two constant bytes, and the law of adjacent
ranges. -/
theorem extractCornersAndConcatenation : Obligations.ExtractCornersAndConcatenation := by
  refine ⟨fun b => ?_, fun b s hs => ?_, fun b => ⟨?_, ?_⟩, fun s w h => ⟨?_, ?_⟩,
    fun b s w1 w2 v1 v2 h h1 h2 => ?_, fun b s w h => extract_of_lt h b⟩
  · rw [extract_of_le (by decide), extractBits_zero_start_toNat (by decide)]; rfl
  · rw [extract_of_le hs, BitVec.toNat_of_zero_length rfl]
  · rw [extract_of_le (by decide), extractBits_toNat, BitVec.msb_eq_getLsbD_last, BitVec.getLsbD,
      Nat.toNat_testBit]
    rfl
  · rw [extract_of_le (by decide), extractBits_toNat]; simp
  · rw [extract_of_le h, extractBits_zero]; simp
  · rw [extract_of_le h, extractBits_allOnes h, BitVec.toNat_allOnes]
  · rw [extract_of_le (by omega), Option.some.injEq] at h1 h2
    rw [extract_of_le h, extractBits_add_toNat h, h1, h2]

end Sys2Proof

/-! ## The six fields (R93) -/

namespace Sys2Proof

/-- Three ranges that follow one another through all eight bits partition the byte. -/
theorem toNat_eq_of_three_ranges {w1 w2 w3 : Nat} (h : w1 + w2 + w3 = 8) (b : Byte) :
    b.toNat = (extractBits b 0 w1).toNat * 2 ^ (w2 + w3) + (extractBits b w1 w2).toNat * 2 ^ w3 +
      (extractBits b (w1 + w2) w3).toNat := by
  have hwhole := extractBits_zero_start_toNat h.le b
  rw [extractBits_add_toNat (by omega), extractBits_add_toNat (by omega), h] at hwhole
  simp only [Nat.zero_add, Nat.sub_self, Nat.shiftRight_zero] at hwhole
  rw [← hwhole, Nat.add_mul, Nat.pow_add, Nat.mul_assoc]

/-- Settles O4: the fields are the ranges 6 + 1 + 1 of `byte0` and 2 + 3 + 3 of `byte1`. -/
theorem sixFieldsPartitionTheTwoBytes : Obligations.SixFieldsPartitionTheTwoBytes :=
  ⟨fun b => ⟨extract_of_le (by decide) b, extractBits_zero_start_toNat (by decide) b,
    extract_of_le (by decide) b, extractBits_toNat_eq_and b 6 1,
    extract_of_le (by decide) b, extractBits_toNat_eq_and b 7 1,
    toNat_eq_of_three_ranges (w1 := 6) (w2 := 1) (w3 := 1) rfl b⟩,
  fun b => ⟨extract_of_le (by decide) b, extractBits_zero_start_toNat (by decide) b,
    extract_of_le (by decide) b, extractBits_toNat_eq_and b 2 3,
    extract_of_le (by decide) b, extractBits_toNat_eq_and b 5 3,
    toNat_eq_of_three_ranges (w1 := 2) (w2 := 3) (w3 := 3) rfl b⟩⟩

end Sys2Proof

/-! # Family 41_field_decoders: the field decoders, each with the one field it reads -/

/-! ## The fields that the decoders read, as values and as bits (R90, R93) -/

namespace Sys2Proof

/-- Inside the byte, `Extract` answers a value exactly when the bits of the range are that value. -/
theorem extract_eq_some_toNat_iff {start width : Nat} (h : start + width ≤ 8) (b : Byte)
    (v : BitVec width) : extract b start width = some v.toNat ↔ extractBits b start width = v := by
  rw [extract_of_le h, Option.some.injEq, BitVec.toNat_inj]

/-- A field of width one is the bit at its start. -/
theorem extractBits_one {start : Nat} (h : start + 1 ≤ 8) (b : Byte) :
    extractBits b start 1 = BitVec.ofBool (b.getMsbD start) := by
  refine BitVec.eq_of_getLsbD_eq fun i hi => ?_
  obtain rfl : i = 0 := by omega
  simpa using extractBits_getLsbD h Nat.one_pos b

theorem ofBool_injective : Function.Injective BitVec.ofBool := by decide

theorem ofBool_eq_one_iff (x : Bool) : BitVec.ofBool x = 1#1 ↔ x = true :=
  ofBool_injective.eq_iff (b := true)

/-- `Extract` with width one answers the bit at its start. -/
theorem extract_one_eq_some_toNat_iff {start : Nat} (h : start + 1 ≤ 8) (b : Byte) (x : Bool) :
    extract b start 1 = some x.toNat ↔ b.getMsbD start = x := by
  rw [← BitVec.toNat_ofBool, extract_eq_some_toNat_iff h, extractBits_one h, ofBool_injective.eq_iff]

/-- MSB-0 bit 6 is LSB-0 bit 1 (C1). -/
theorem fieldD_eq_ofBool (b : Byte) : fieldD b = BitVec.ofBool (b.getLsbD 1) :=
  extractBits_one (by decide) b

/-- MSB-0 bit 7 is LSB-0 bit 0. -/
theorem fieldW_eq_ofBool (b : Byte) : fieldW b = BitVec.ofBool (b.getLsbD 0) :=
  extractBits_one (by decide) b

/-- The opcode field is the byte without its two lowest bits. -/
theorem fieldOpc_eq_ofNat (b : Byte) : fieldOpc b = BitVec.ofNat 6 (b.toNat / 4) :=
  BitVec.eq_of_toNat_eq (extractBits_toNat b 0 6)

end Sys2Proof

/-! ## The two checks (R100, R104) -/

namespace Sys2Proof

theorem decodeOpcode_of_mov {b : Byte} (h : fieldOpc b = 0b100010#6) : decodeOpcode b = .ok .mov :=
  if_pos h

theorem decodeOpcode_of_ne {b : Byte} (h : fieldOpc b ≠ 0b100010#6) :
    decodeOpcode b = .err (.unrecognizedOpcode b) :=
  if_neg h

theorem decodeOpcode_eq_ok_iff {b : Byte} : decodeOpcode b = .ok .mov ↔ fieldOpc b = 0b100010#6 := by
  refine ⟨fun hok => ?_, decodeOpcode_of_mov⟩
  by_contra hopc
  rw [decodeOpcode_of_ne hopc] at hok
  cases hok

/-- The first bytes of the four rows (R70) are all the bytes with the opcode pattern. -/
theorem fieldOpc_eq_mov_iff (b : Byte) :
    fieldOpc b = 0b100010#6 ↔ b = 0x88#8 ∨ b = 0x89#8 ∨ b = 0x8A#8 ∨ b = 0x8B#8 := by
  refine ⟨byte0_of_fieldOpc, ?_⟩
  rintro (rfl | rfl | rfl | rfl) <;> rfl

theorem checkMode_of_direct {b : Byte} (h : fieldMod b = 0b11#2) : checkMode b = .ok () :=
  if_pos h

theorem checkMode_of_ne {b : Byte} (h : fieldMod b ≠ 0b11#2) :
    checkMode b = .err (.unsupportedAddressingMode b) :=
  if_neg h

theorem checkMode_eq_ok_iff {b : Byte} : checkMode b = .ok () ↔ fieldMod b = 0b11#2 := by
  refine ⟨fun hok => ?_, checkMode_of_direct⟩
  by_contra hmod
  rw [checkMode_of_ne hmod] at hok
  cases hok

/-- Settles O5: the opcode check compares the OPC field, and that field has the pattern in four bytes. -/
theorem opcodeDecoderAcceptsOnlyMov : Obligations.OpcodeDecoderAcceptsOnlyMov := by
  intro b
  have hfield : extract b 0 6 = some 0b100010 ↔ fieldOpc b = 0b100010#6 :=
    extract_eq_some_toNat_iff (by decide) b 0b100010#6
  exact ⟨fun h => decodeOpcode_of_mov (hfield.mp h), fun h => decodeOpcode_of_ne (mt hfield.mpr h),
    decodeOpcode_eq_ok_iff.trans (fieldOpc_eq_mov_iff b)⟩

/-- Settles O7: the mode check compares the MOD field, the top two bits of the byte. -/
theorem modeCheckAcceptsOnlyRegisterDirect : Obligations.ModeCheckAcceptsOnlyRegisterDirect := by
  intro b
  have hfield : extract b 0 2 = some 0b11 ↔ fieldMod b = 0b11#2 :=
    extract_eq_some_toNat_iff (by decide) b 0b11#2
  exact ⟨fun h => checkMode_of_direct (hfield.mp h), fun h => checkMode_of_ne (mt hfield.mpr h),
    checkMode_eq_ok_iff.trans (fieldMod_eq_direct_iff_range b)⟩

end Sys2Proof

/-! ## The two one-bit decoders (R101, R102) -/

namespace Sys2Proof

/-- The direction by the bit it is read from (R101). -/
theorem decodeDirection_eq_ite (b : Byte) :
    decodeDirection b = if b.getLsbD 1 then .registerIsDestination else .registerIsSource := by
  simp only [decodeDirection, fieldD_eq_ofBool, ofBool_eq_one_iff]

/-- The operand size by the bit it is read from (R102). -/
theorem decodeOperandSize_eq_ite (b : Byte) :
    decodeOperandSize b = if b.getLsbD 0 then .word else .byte := by
  simp only [decodeOperandSize, fieldW_eq_ofBool, ofBool_eq_one_iff]

theorem decodeDirection_eq_destination_iff (b : Byte) :
    decodeDirection b = .registerIsDestination ↔ b.getLsbD 1 = true := by
  rw [decodeDirection_eq_ite]
  cases b.getLsbD 1 <;> decide

theorem decodeDirection_eq_source_iff (b : Byte) :
    decodeDirection b = .registerIsSource ↔ b.getLsbD 1 = false := by
  rw [decodeDirection_eq_ite]
  cases b.getLsbD 1 <;> decide

theorem decodeOperandSize_eq_word_iff (b : Byte) : decodeOperandSize b = .word ↔ b.getLsbD 0 = true := by
  rw [decodeOperandSize_eq_ite]
  cases b.getLsbD 0 <;> decide

theorem decodeOperandSize_eq_byte_iff (b : Byte) : decodeOperandSize b = .byte ↔ b.getLsbD 0 = false := by
  rw [decodeOperandSize_eq_ite]
  cases b.getLsbD 0 <;> decide

theorem getLsbD_zero_iff_odd (b : Byte) : b.getLsbD 0 = true ↔ b.toNat % 2 = 1 := by
  rw [BitVec.getLsbD, Nat.testBit_zero, decide_eq_true_iff]

/-- Settles O6: `Extract` answers the one bit that the decoder reads, and each value of that bit has its
own result. -/
theorem oneBitDecodersAreTotal : Obligations.OneBitDecodersAreTotal := by
  intro b
  have hD (x : Bool) : extract b 6 1 = some x.toNat ↔ b.getLsbD 1 = x :=
    extract_one_eq_some_toNat_iff (by decide) b x
  have hW (x : Bool) : extract b 7 1 = some x.toNat ↔ b.getLsbD 0 = x :=
    extract_one_eq_some_toNat_iff (by decide) b x
  exact ⟨fun h => (decodeDirection_eq_destination_iff b).mpr ((hD true).mp h),
    fun h => (decodeDirection_eq_source_iff b).mpr ((hD false).mp h),
    decodeDirection_eq_destination_iff b,
    fun h => (decodeOperandSize_eq_word_iff b).mpr ((hW true).mp h),
    fun h => (decodeOperandSize_eq_byte_iff b).mpr ((hW false).mp h),
    (decodeOperandSize_eq_word_iff b).trans (getLsbD_zero_iff_odd b)⟩

end Sys2Proof

/-! ## Independence of the `byte0` decoders (R106) -/

namespace Sys2Proof

/-- The D bit is not the size's bit. -/
theorem getLsbD_zero_toggle_D (b : Byte) : (b ^^^ 0x02#8).getLsbD 0 = b.getLsbD 0 := by
  have hbit : (0x02#8).getLsbD 0 = false := rfl
  rw [BitVec.getLsbD_xor, hbit, Bool.xor_false]

/-- Settles O8: each result is a function of the decoder's own bits. -/
theorem fieldDecodersReadOnlyTheirOwnBits : Obligations.FieldDecodersReadOnlyTheirOwnBits := by
  refine fun b c => ⟨fun h => ?_, fun h => ?_, fun h => ?_, ?_⟩
  · rw [decodeOpcode_eq_ok_iff, decodeOpcode_eq_ok_iff, fieldOpc_eq_ofNat, fieldOpc_eq_ofNat, h]
  · rw [decodeDirection_eq_ite, decodeDirection_eq_ite, h]
  · rw [decodeOperandSize_eq_ite, decodeOperandSize_eq_ite, h]
  · rw [decodeOperandSize_eq_ite, decodeOperandSize_eq_ite, getLsbD_zero_toggle_D]

end Sys2Proof

/-! # Family 42_register_resolver: the register table, one to one, and read with no other bit -/

/-! ## The table and the codes (R121, R125, R127) -/

namespace Sys2Proof

/-- Settles O9: the resolver indexes the table of R121, so each entry is read off it. -/
theorem resolverReturnsTheTableEntry : Obligations.ResolverReturnsTheTableEntry :=
  ⟨⟨rfl, rfl, rfl, rfl, rfl, rfl, rfl, rfl⟩, ⟨rfl, rfl, rfl, rfl, rfl, rfl, rfl, rfl⟩⟩

end Sys2Proof

namespace Sys2Proof.Machine

theorem sizeCode_injective : Function.Injective sizeCode := by
  intro z z' h
  cases z <;> cases z' <;> revert h <;> decide

/-- The code of a register is the W bit above its field, as a number (R37). -/
theorem registerCode_resolveRegister_toNat (f : BitVec 3) (z : OperandSize) :
    (registerCode (resolveRegister f z)).toNat = 8 * (sizeCode z).toNat + f.toNat := by
  rw [registerCode_resolveRegister, BitVec.toNat_append, Nat.shiftLeft_eq, Nat.mul_comm]
  exact (Nat.two_pow_add_eq_or_of_lt f.isLt _).symm

/-- The register alone determines the field and the size it was resolved from: the encoder returns the
field, and the code then leaves one value for the W bit. -/
theorem resolveRegister_inj {f f' : BitVec 3} {z z' : OperandSize}
    (h : resolveRegister f z = resolveRegister f' z') : f = f' ∧ z = z' := by
  have hfield : f = f' := by
    simpa only [encodeRegister_resolveRegister] using congrArg encodeRegister h
  have hcode : 8 * (sizeCode z).toNat + f.toNat = 8 * (sizeCode z').toNat + f'.toNat := by
    rw [← registerCode_resolveRegister_toNat, h, registerCode_resolveRegister_toNat]
  have hsize : (sizeCode z).toNat = (sizeCode z').toNat := by
    rw [hfield] at hcode
    omega
  exact ⟨hfield, sizeCode_injective (BitVec.eq_of_toNat_eq hsize)⟩

end Sys2Proof.Machine

namespace Sys2Proof

/-- The record alone determines the pair it was decoded from: the encoder rebuilds both bytes. -/
theorem decodeRecord_inj {b0 b1 c0 c1 : Byte} {r : InstructionRecord} (hb : decodeRecord b0 b1 = .ok r)
    (hc : decodeRecord c0 c1 = .ok r) : b0 = c0 ∧ b1 = c1 :=
  Prod.mk.inj ((encode_of_decodeRecord hb).symm.trans (encode_of_decodeRecord hc))

/-- Settles O10: field and size are read back from the register, the two bytes from the record. -/
theorem resolverIsOneToOne : Obligations.ResolverIsOneToOne :=
  ⟨fun _ _ _ _ => Machine.resolveRegister_inj, fun _ _ _ _ _ => decodeRecord_inj,
    Machine.registerCode_resolveRegister_toNat⟩

end Sys2Proof

/-! ## What the choice of registers depends on (R124) -/

namespace Sys2Proof

/-- The REG field is LSB-0 bits 5 to 3. -/
theorem fieldReg_eq_of_bits {b c : Byte} (h : (b.toNat >>> 3) &&& 7 = (c.toNat >>> 3) &&& 7) :
    fieldReg b = fieldReg c := by
  refine BitVec.eq_of_toNat_eq ?_
  calc (fieldReg b).toNat = (b.toNat >>> 3) &&& 7 := extractBits_toNat_eq_and b 2 3
    _ = (c.toNat >>> 3) &&& 7 := h
    _ = (fieldReg c).toNat := (extractBits_toNat_eq_and c 2 3).symm

/-- The RM field is LSB-0 bits 2 to 0. -/
theorem fieldRm_eq_of_bits {b c : Byte} (h : b.toNat &&& 7 = c.toNat &&& 7) : fieldRm b = fieldRm c := by
  refine BitVec.eq_of_toNat_eq ?_
  calc (fieldRm b).toNat = b.toNat &&& 7 := extractBits_toNat_eq_and b 5 3
    _ = c.toNat &&& 7 := h
    _ = (fieldRm c).toNat := (extractBits_toNat_eq_and c 5 3).symm

theorem extractBits_xor (b m : Byte) (start width : Nat) :
    extractBits (b ^^^ m) start width = extractBits b start width ^^^ extractBits m start width := by
  simp only [extractBits, BitVec.ushiftRight_xor_distrib, BitVec.setWidth_xor]

/-- The D bit is outside the opcode field. -/
theorem fieldOpc_toggle_D (b : Byte) : fieldOpc (b ^^^ 0x02#8) = fieldOpc b :=
  (extractBits_xor b 0x02#8 0 6).trans BitVec.xor_zero

theorem decodeOperandSize_toggle_D (b : Byte) : decodeOperandSize (b ^^^ 0x02#8) = decodeOperandSize b := by
  rw [decodeOperandSize_eq_ite, decodeOperandSize_eq_ite, getLsbD_zero_toggle_D]

theorem decodeDirection_toggle_D_ne (b : Byte) : decodeDirection (b ^^^ 0x02#8) ≠ decodeDirection b := by
  have hbit : (0x02#8).getLsbD 1 = true := rfl
  rw [decodeDirection_eq_ite, decodeDirection_eq_ite, BitVec.getLsbD_xor, hbit, Bool.xor_true]
  cases b.getLsbD 1 <;> decide

/-- Toggling the D bit of a pair that decodes changes the direction of its record and nothing else. -/
theorem decodeRecord_toggle_D {b0 b1 : Byte} {r : InstructionRecord} (h : decodeRecord b0 b1 = .ok r) :
    decodeRecord (b0 ^^^ 0x02#8) b1 = .ok { r with direction := decodeDirection (b0 ^^^ 0x02#8) } := by
  obtain ⟨hopc, hmod, rfl⟩ := decodeRecord_ok_cases h
  rw [decodeRecord_of_checks ((fieldOpc_toggle_D b0).trans hopc) hmod, decodeOperandSize_toggle_D]

/-- Settles O11: each register is the resolver's value at one field and the size, and the D bit is in
neither. -/
theorem directionDoesNotLeakIntoTheResolver : Obligations.DirectionDoesNotLeakIntoTheResolver := by
  refine ⟨fun b0 b1 c0 c1 r q hr hq hsize => ?_, fun b0 b1 r h =>
    ⟨decodeDirection (b0 ^^^ 0x02#8), ?_, decodeRecord_toggle_D h⟩⟩
  · obtain ⟨-, -, rfl⟩ := decodeRecord_ok_cases hr
    obtain ⟨-, -, rfl⟩ := decodeRecord_ok_cases hq
    exact ⟨fun h => congrArg₂ resolveRegister (fieldReg_eq_of_bits h) hsize,
      fun h => congrArg₂ resolveRegister (fieldRm_eq_of_bits h) hsize⟩
  · obtain ⟨-, -, rfl⟩ := decodeRecord_ok_cases h
    exact decodeDirection_toggle_D_ne b0

end Sys2Proof

/-! # Family 43_record_and_renderer: the shape of a line, the names in it, the order of its operands -/

/-! ## The line and the names (R132 to R134, R136, R141) -/

namespace Sys2Proof.Machine

/-- `MOV` is the only mnemonic (R133), so every line opens with it. -/
theorem render_eq (r : InstructionRecord) :
    render r = ['M', 'O', 'V', ' '] ++ name (firstOperand r) ++ [' '] ++ name (secondOperand r) := by
  obtain ⟨⟨⟩, d, z, reg, rm⟩ := r
  rfl

/-- Settles O13: the direction alone says which register is the first operand. -/
theorem renderPrintsMnemonicAndTwoOperands : Obligations.RenderPrintsMnemonicAndTwoOperands :=
  fun _ _ _ => ⟨render_eq _, render_eq _⟩

/-- Settles O14: each name is read off the table of R134. -/
theorem registerNamesAreTheTableSpelling : Obligations.RegisterNamesAreTheTableSpelling :=
  ⟨⟨rfl, rfl, rfl, rfl, rfl, rfl, rfl, rfl⟩, ⟨rfl, rfl, rfl, rfl, rfl, rfl, rfl, rfl⟩⟩

theorem upper_of_mem_name {r : Register} : ∀ c ∈ name r, 'A' ≤ c ∧ c ≤ 'Z' := by
  cases r <;> simp [name]

theorem space_notMem_name (r : Register) : ' ' ∉ name r := by
  intro h
  obtain ⟨hA, -⟩ := upper_of_mem_name ' ' h
  exact absurd hA (by decide)

/-- Settles O15: the four letters are those of the two names. -/
theorem everyLineHasNineCharacters : Obligations.EveryLineHasNineCharacters := by
  intro r
  obtain ⟨a, b, hfirst⟩ := List.length_eq_two.mp (name_length (firstOperand r))
  obtain ⟨c, d, hsecond⟩ := List.length_eq_two.mp (name_length (secondOperand r))
  refine ⟨render_length r, a, b, c, d, ?_, fun x hx => ?_⟩
  · rw [render_eq, hfirst, hsecond]; rfl
  · have hmem : x ∈ name (firstOperand r) ++ name (secondOperand r) := by rwa [hfirst, hsecond]
    exact (List.mem_append.mp hmem).elim (upper_of_mem_name x) (upper_of_mem_name x)

end Sys2Proof.Machine

/-! ## The order of the operands (R135, R139) -/

namespace Sys2Proof.Machine

/-- The operands can be read back from a line: no name holds a space, so the space between them is the
only place where the rest of the line can be cut. -/
theorem render_eq_iff (r : InstructionRecord) (a b : Text) :
    render r = ['M', 'O', 'V', ' '] ++ a ++ [' '] ++ b ↔
      name (firstOperand r) = a ∧ name (secondOperand r) = b := by
  rw [render_eq]
  simp only [List.append_assoc, List.append_cancel_left_eq, List.singleton_append]
  rw [List.append_cons_inj_of_notMem (space_notMem_name _) (space_notMem_name _)]
  simp only [true_and]

/-- The other direction prints the second operand first. -/
theorem firstOperand_of_direction_ne {d d' : Direction} (h : d ≠ d') (o : OpCode) (z : OperandSize)
    (reg rm : Register) : firstOperand ⟨o, d, z, reg, rm⟩ = secondOperand ⟨o, d', z, reg, rm⟩ := by
  match d, d', h with
  | .registerIsDestination, .registerIsSource, _ => rfl
  | .registerIsSource, .registerIsDestination, _ => rfl

@[simp] theorem firstOperand_self (o : OpCode) (d : Direction) (z : OperandSize) (r : Register) :
    firstOperand ⟨o, d, z, r, r⟩ = r := by
  cases d <;> rfl

@[simp] theorem secondOperand_self (o : OpCode) (d : Direction) (z : OperandSize) (r : Register) :
    secondOperand ⟨o, d, z, r, r⟩ = r := by
  cases d <;> rfl

/-- Settles O16: both lines are read back to their operands, which the other direction exchanges. -/
theorem directionSwapsThePrintedOperands : Obligations.DirectionSwapsThePrintedOperands := by
  intro o d d' z reg rm hd
  refine ⟨fun a b => ?_, ?_⟩
  · rw [render_eq_iff, render_eq_iff, firstOperand_of_direction_ne hd,
      firstOperand_of_direction_ne hd.symm, and_comm]
  · rintro rfl
    simp only [render_eq, firstOperand_self, secondOperand_self]

end Sys2Proof.Machine

/-! # Family 44_mov: the four forms from byte to line, the closed form, the two encodings of a line -/

/-! ## A second byte put together from its fields (R62, R93) -/

namespace Sys2Proof

/-- The encoder writes the two fields as they are, whatever the column. -/
theorem encodeByte1_resolveRegister (f g : BitVec 3) (z : OperandSize) :
    encodeByte1 (resolveRegister f z) (resolveRegister g z) = 0b11#2 ++ f ++ g := by
  simp only [encodeByte1, encodeRegister_resolveRegister]

@[simp] theorem fieldMod_append (f g : BitVec 3) : fieldMod (0b11#2 ++ f ++ g) = 0b11#2 := by
  rw [← encodeByte1_resolveRegister f g .byte, fieldMod_encodeByte1]

@[simp] theorem fieldReg_append (f g : BitVec 3) : fieldReg (0b11#2 ++ f ++ g) = f := by
  rw [← encodeByte1_resolveRegister f g .byte, fieldReg_encodeByte1, encodeRegister_resolveRegister]

@[simp] theorem fieldRm_append (f g : BitVec 3) : fieldRm (0b11#2 ++ f ++ g) = g := by
  rw [← encodeByte1_resolveRegister f g .byte, fieldRm_encodeByte1, encodeRegister_resolveRegister]

/-- A pair with the opcode pattern and MOD = 11 decodes to the record of its D and W bits and its two
fields (R151 to R154). -/
theorem decodeRecord_append {b0 : Byte} (hopc : fieldOpc b0 = 0b100010#6) (f g : BitVec 3) :
    decodeRecord b0 (0b11#2 ++ f ++ g) = .ok
      ⟨.mov, decodeDirection b0, decodeOperandSize b0,
        resolveRegister f (decodeOperandSize b0), resolveRegister g (decodeOperandSize b0)⟩ := by
  rw [decodeRecord_of_checks hopc (fieldMod_append f g), fieldReg_append, fieldRm_append]

/-- Settles O24: each word is its first byte beside two fields, and the last one fails the opcode check. -/
theorem specWordsDecodeAsWritten : Obligations.SpecWordsDecodeAsWritten :=
  ⟨decode_eq_ok.mpr (decodeRecord_append (b0 := 0x89#8) rfl 0b011#3 0b001#3),
    decode_eq_ok.mpr (decodeRecord_append (b0 := 0x88#8) rfl 0b000#3 0b001#3),
    decode_eq_ok.mpr (decodeRecord_append (b0 := 0x8B#8) rfl 0b000#3 0b001#3),
    decode_eq_ok.mpr (decodeRecord_append (b0 := 0x8A#8) rfl 0b000#3 0b001#3),
    decode_eq_err.mpr (decodeRecord_of_bad_opcode (b0 := 0xF0#8) 0x00#8 (by decide))⟩

end Sys2Proof

/-! ## The fields as shifted and masked numbers (R91, R93) -/

namespace Sys2Proof

theorem extractBits_zero_start_eq_iff {width : Nat} (h : width ≤ 8) (b : Byte) (v : BitVec width) :
    extractBits b 0 width = v ↔ b.toNat >>> (8 - width) = v.toNat := by
  rw [← BitVec.toNat_inj, extractBits_zero_start_toNat h]

theorem extractBits_eq_iff (b : Byte) (start width : Nat) (v : BitVec width) :
    extractBits b start width = v ↔
      (b.toNat >>> (8 - start - width)) &&& ((1 <<< width) - 1) = v.toNat := by
  rw [← BitVec.toNat_inj, extractBits_toNat_eq_and]

theorem extractBits_eq_ofNat (b : Byte) (start width : Nat) :
    extractBits b start width =
      BitVec.ofNat width ((b.toNat >>> (8 - start - width)) &&& ((1 <<< width) - 1)) := by
  rw [← extractBits_toNat_eq_and, BitVec.ofNat_toNat, BitVec.setWidth_eq]

theorem fieldOpc_eq_mov_iff_shift (b : Byte) : fieldOpc b = 0b100010#6 ↔ b.toNat >>> 2 = 0b100010 :=
  extractBits_zero_start_eq_iff (by decide) b 0b100010#6

theorem fieldMod_eq_direct_iff_shift (b : Byte) : fieldMod b = 0b11#2 ↔ b.toNat >>> 6 = 0b11 :=
  extractBits_zero_start_eq_iff (by decide) b 0b11#2

theorem fieldReg_eq_ofNat (b : Byte) : fieldReg b = BitVec.ofNat 3 ((b.toNat >>> 3) &&& 7) :=
  extractBits_eq_ofNat b 2 3

theorem fieldRm_eq_ofNat (b : Byte) : fieldRm b = BitVec.ofNat 3 (b.toNat &&& 7) :=
  extractBits_eq_ofNat b 5 3

theorem decodeDirection_eq_ite_shift (b : Byte) :
    decodeDirection b =
      if (b.toNat >>> 1) &&& 1 = 1 then .registerIsDestination else .registerIsSource :=
  if_congr (extractBits_eq_iff b 6 1 1#1) rfl rfl

theorem decodeOperandSize_eq_ite_and (b : Byte) :
    decodeOperandSize b = if b.toNat &&& 1 = 1 then .word else .byte :=
  if_congr (extractBits_eq_iff b 7 1 1#1) rfl rfl

end Sys2Proof

/-! ## The record and the line of each form, executed and stepped (R151 to R154) -/

namespace Sys2Proof.Machine

/-- What the block puts out for a record, with its line written out (R132, R133). -/
theorem outputOf_eq (r : InstructionRecord) :
    outputOf r =
      ⟨r, ['M', 'O', 'V', ' '] ++ name (firstOperand r) ++ [' '] ++ name (secondOperand r)⟩ := by
  rw [outputOf, render_eq]

/-- Everything an instruction does, with its line written out. -/
theorem exec_eq_line (i : Instr) (s : State) :
    exec i s = .next (deliver (.ok ⟨i.toRecord, ['M', 'O', 'V', ' '] ++ name (firstOperand i.toRecord) ++
      [' '] ++ name (secondOperand i.toRecord)⟩) s) := by
  rw [exec_eq, outputOf_eq]

/-- Settles O25: every instruction delivers the output of its record; the form fixes the record's
direction, and the direction which operand is printed first. -/
theorem eachInstructionProducesItsRecordAndLine :
    Obligations.EachInstructionProducesItsRecordAndLine :=
  fun _ _ _ => ⟨exec_eq_line _ _, exec_eq_line _ _, exec_eq_line _ _, exec_eq_line _ _⟩

/-- The block's result for a pair with the opcode pattern and MOD = 11. -/
theorem blockResult_append {b0 : Byte} (hopc : fieldOpc b0 = 0b100010#6) (f g : BitVec 3) :
    blockResult b0 (0b11#2 ++ f ++ g) = .ok (outputOf
      ⟨.mov, decodeDirection b0, decodeOperandSize b0,
        resolveRegister f (decodeOperandSize b0), resolveRegister g (decodeOperandSize b0)⟩) := by
  rw [blockResult, decodeRecord_append hopc, Result.map_ok]

/-- The block's result for a pair with the opcode pattern and another MOD. -/
theorem blockResult_of_bad_mode {b0 b1 : Byte} (hopc : fieldOpc b0 = 0b100010#6)
    (hmod : fieldMod b1 ≠ 0b11#2) : blockResult b0 b1 = .err (.unsupportedAddressingMode b1) := by
  rw [blockResult, decodeRecord_of_bad_mode hopc hmod, Result.map_err]

/-- One rule for the four forms: the D and W bits of a first byte with the opcode pattern say which form
it is. -/
theorem formSteps_of_fieldOpc {b0 : Byte} (hopc : fieldOpc b0 = 0b100010#6) :
    FormSteps b0 (decodeDirection b0) (decodeOperandSize b0) := by
  intro s b1 hs h0 h1
  have hstep : step s = .next ⟨s.stream, s.pos + 2, s.out ++ [blockResult b0 b1]⟩ :=
    stepAddsTheBlockResultOfThePair s b0 b1 hs h0 h1
  refine ⟨?_, fun hmod => ?_⟩
  · rintro f g rfl
    rw [hstep, blockResult_append hopc, outputOf_eq]
    cases decodeDirection b0 <;> simp only [firstOperand, secondOperand, List.append_assoc]
  · rw [hstep, blockResult_of_bad_mode hopc (mt (fieldMod_eq_direct_iff_shift b1).mp hmod)]

/-- Settles O29: the four first bytes have the opcode pattern, each with its own D and W bits. -/
theorem eachFormStepsAsItsRuleSays : Obligations.EachFormStepsAsItsRuleSays :=
  ⟨formSteps_of_fieldOpc (b0 := 0x88#8) rfl, formSteps_of_fieldOpc (b0 := 0x89#8) rfl,
    formSteps_of_fieldOpc (b0 := 0x8A#8) rfl, formSteps_of_fieldOpc (b0 := 0x8B#8) rfl⟩

end Sys2Proof.Machine

/-! ## The closed form (R156) -/

namespace Sys2Proof.Machine

/-- Settles O18: the two checks and the four fields are shifts and masks of the two bytes. -/
theorem decodeAndRenderClosedForm : Obligations.DecodeAndRenderClosedForm := by
  intro b0 b1
  refine ⟨?_, map_text_blockResult b0 b1⟩
  simp only [ne_eq, ← fieldOpc_eq_mov_iff_shift, ← fieldMod_eq_direct_iff_shift,
    ← fieldReg_eq_ofNat, ← fieldRm_eq_ofNat, ← decodeOperandSize_eq_ite_and]
  by_cases hopc : fieldOpc b0 = 0b100010#6
  · rw [if_neg (not_not.mpr hopc)]
    by_cases hmod : fieldMod b1 = 0b11#2
    · rw [if_neg (not_not.mpr hmod), decodeAndRender, decodeRecord_of_checks hopc hmod, Result.map_ok,
        render_eq, decodeDirection_eq_ite_shift]
      split <;> rfl
    · rw [if_pos hmod, decodeAndRender, decodeRecord_of_bad_mode hopc hmod, Result.map_err]
  · rw [if_pos hopc, decodeAndRender, decodeRecord_of_bad_opcode b1 hopc, Result.map_err]

end Sys2Proof.Machine

/-! ## The two records of a line, and their two pairs (R155) -/

namespace Sys2Proof

/-- The other direction (R22). -/
def Direction.opposite (d : Direction) : Direction :=
  match d with
  | .registerIsDestination => .registerIsSource
  | .registerIsSource => .registerIsDestination

theorem Direction.opposite_ne (d : Direction) : d.opposite ≠ d := by
  cases d <;> decide

theorem Direction.eq_opposite_of_ne {d d' : Direction} (h : d' ≠ d) : d' = d.opposite := by
  match d, d', h with
  | .registerIsDestination, .registerIsSource, _ => rfl
  | .registerIsSource, .registerIsDestination, _ => rfl

theorem decodeDirection_toggle_D (b : Byte) :
    decodeDirection (b ^^^ 0x02#8) = (decodeDirection b).opposite :=
  Direction.eq_opposite_of_ne (decodeDirection_toggle_D_ne b)

/-- The record with the direction inverted and the two registers exchanged. -/
def InstructionRecord.exchange (r : InstructionRecord) : InstructionRecord :=
  ⟨r.opcode, r.direction.opposite, r.size, r.rm, r.reg⟩

theorem InstructionRecord.exchange_ne (r : InstructionRecord) : r.exchange ≠ r :=
  fun h => r.direction.opposite_ne (congrArg InstructionRecord.direction h)

theorem InstructionRecord.wellFormed_exchange {r : InstructionRecord} (h : r.wellFormed = true) :
    r.exchange.wellFormed = true :=
  r.exchange.wellFormed_iff.mpr (r.wellFormed_iff.mp h).symm

/-- The pair with D inverted and the REG and RM fields exchanged decodes to the exchanged record. -/
theorem decodeRecord_exchange {b0 b1 : Byte} {r : InstructionRecord} (h : decodeRecord b0 b1 = .ok r) :
    decodeRecord (b0 ^^^ 0x02#8) (0b11#2 ++ fieldRm b1 ++ fieldReg b1) = .ok r.exchange := by
  obtain ⟨hopc, -, rfl⟩ := decodeRecord_ok_cases h
  rw [decodeRecord_append ((fieldOpc_toggle_D b0).trans hopc), decodeOperandSize_toggle_D,
    decodeDirection_toggle_D, InstructionRecord.exchange]

end Sys2Proof

namespace Sys2Proof.Machine

@[simp] theorem firstOperand_exchange (r : InstructionRecord) : firstOperand r.exchange = firstOperand r := by
  obtain ⟨o, d, z, reg, rm⟩ := r
  cases d <;> rfl

@[simp] theorem secondOperand_exchange (r : InstructionRecord) :
    secondOperand r.exchange = secondOperand r := by
  obtain ⟨o, d, z, reg, rm⟩ := r
  cases d <;> rfl

/-- No register is in both columns. -/
theorem size_eq_of_inColumn {r : Register} {z z' : OperandSize} (h : r.inColumn z = true)
    (h' : r.inColumn z' = true) : z = z' := by
  have hr : resolveRegister (encodeRegister r) z = resolveRegister (encodeRegister r) z' :=
    (resolveRegister_encodeRegister h).trans (resolveRegister_encodeRegister h').symm
  exact (resolveRegister_inj hr).2

theorem firstOperand_inColumn {r : InstructionRecord} (h : r.wellFormed = true) :
    (firstOperand r).inColumn r.size = true := by
  obtain ⟨hreg, hrm⟩ := r.wellFormed_iff.mp h
  unfold firstOperand
  cases r.direction
  · exact hreg
  · exact hrm

/-- Of a well-formed record, the direction and the two operands say everything: the size is that of the
operands' column. -/
theorem eq_of_operands {q r : InstructionRecord} (hq : q.wellFormed = true) (hr : r.wellFormed = true)
    (hd : q.direction = r.direction) (hfirst : firstOperand q = firstOperand r)
    (hsecond : secondOperand q = secondOperand r) : q = r := by
  have hsize : q.size = r.size :=
    size_eq_of_inColumn (hfirst ▸ firstOperand_inColumn hq) (firstOperand_inColumn hr)
  obtain ⟨⟨⟩, d, z, reg, rm⟩ := q
  obtain ⟨⟨⟩, d', z', reg', rm'⟩ := r
  obtain rfl : d = d' := hd
  obtain rfl : z = z' := hsize
  cases d with
  | registerIsDestination =>
    obtain rfl : reg = reg' := hfirst
    obtain rfl : rm = rm' := hsecond
    rfl
  | registerIsSource =>
    obtain rfl : rm = rm' := hfirst
    obtain rfl : reg = reg' := hsecond
    rfl

/-- The register with this name. -/
def registerOfName (t : Text) : Option Register :=
  [.al, .cl, .dl, .bl, .ah, .ch, .dh, .bh, .ax, .cx, .dx, .bx, .sp, .bp, .si, .di].find? (name · = t)

theorem registerOfName_name (r : Register) : registerOfName (name r) = some r := by
  cases r <;> rfl

theorem name_injective : Function.Injective name := fun r r' h =>
  Option.some.inj (by rw [← registerOfName_name r, h, registerOfName_name])

/-- Two lines are equal when both operands are: the names can be read back. -/
theorem render_eq_render_iff_operands {q r : InstructionRecord} :
    render q = render r ↔ firstOperand q = firstOperand r ∧ secondOperand q = secondOperand r := by
  rw [render_eq r, render_eq_iff, name_injective.eq_iff, name_injective.eq_iff]

@[simp] theorem render_exchange (r : InstructionRecord) : render r.exchange = render r :=
  render_eq_render_iff_operands.mpr ⟨firstOperand_exchange r, secondOperand_exchange r⟩

/-- The well-formed records of a line are one record and its exchange. -/
theorem render_eq_render_iff {q r : InstructionRecord} (hq : q.wellFormed = true)
    (hr : r.wellFormed = true) : render q = render r ↔ q = r ∨ q = r.exchange := by
  constructor
  · intro hline
    obtain ⟨hfirst, hsecond⟩ := render_eq_render_iff_operands.mp hline
    by_cases hd : q.direction = r.direction
    · exact .inl (eq_of_operands hq hr hd hfirst hsecond)
    · exact .inr (eq_of_operands hq (InstructionRecord.wellFormed_exchange hr)
        (Direction.eq_opposite_of_ne hd) (hfirst.trans (firstOperand_exchange r).symm)
        (hsecond.trans (secondOperand_exchange r).symm))
  · rintro (rfl | rfl)
    · rfl
    · exact render_exchange r

/-- Settles O17: a line has two well-formed records, and each well-formed record one pair. -/
theorem eachLineHasExactlyTwoEncodings : Obligations.EachLineHasExactlyTwoEncodings := by
  intro b0 b1 c0 c1 t ht
  obtain ⟨r, hr, rfl⟩ := decodeAndRender_eq_ok.mp ht
  have hx := decodeRecord_exchange hr
  have hwf := decodeRecord_wellFormed hr
  refine ⟨decodeAndRender_eq_ok.trans ⟨?_, ?_⟩, ?_⟩
  · rintro ⟨q, hq, hline⟩
    obtain rfl | rfl := (render_eq_render_iff (decodeRecord_wellFormed hq) hwf).mp hline
    · exact .inl (decodeRecord_inj hq hr)
    · exact .inr (decodeRecord_inj hq hx)
  · rintro (⟨rfl, rfl⟩ | ⟨rfl, rfl⟩)
    · exact ⟨r, hr, rfl⟩
    · exact ⟨r.exchange, hx, render_exchange r⟩
  · rw [hr, hx]
    exact fun h => r.exchange_ne (Result.ok.inj h).symm

end Sys2Proof.Machine

/-! # Family 60_exceptions: the decode error in its pair's place, the reported byte -/

/-! ## A step on a pair that does not decode (R175, R178) -/

namespace Sys2Proof.Machine

theorem blockResult_of_decode_err {b0 b1 : Byte} {e : DecodeError} (h : decode b0 b1 = .err e) :
    blockResult b0 b1 = .err e := by
  rw [blockResult, decode_eq_err.mp h, Result.map_err]

/-- Settles O28: the step adds the block's result, and the block passes a decode error through. -/
theorem stepDeliversADecodeErrorInPlace : Obligations.StepDeliversADecodeErrorInPlace := by
  intro s b0 b1 e hs h0 h1 he
  rw [stepAddsTheBlockResultOfThePair s b0 b1 hs h0 h1, blockResult_of_decode_err he]

end Sys2Proof.Machine

/-! ## The offending byte in a report (R177) -/

namespace Sys2Proof.Machine

@[simp] theorem bin8_length (b : Byte) : (bin8 b).length = 8 := by
  rw [bin8, List.length_map, List.length_range]

/-- A digit is the one-bit field at its place. -/
theorem bin8_getElem? (b : Byte) {i : Nat} (hi : i < 8) :
    (bin8 b)[i]? = some (if b.getMsbD i then '1' else '0') := by
  rw [bin8, List.getElem?_map, List.getElem?_range hi, Option.map_some, extractBits_one hi]
  simp only [ofBool_eq_one_iff]

theorem bin8_infix_errorReportText (e : DecodeError) : bin8 (errorByte e) <:+: errorReportText e :=
  List.infix_append _ _ _

/-- Settles O41: the report puts the digits between a prefix and a suffix, whatever these are. -/
theorem errorReportShowsTheByteInBinary : Obligations.ErrorReportShowsTheByteInBinary :=
  ⟨bin8_infix_errorReportText, fun b => ⟨bin8_length b, fun _ hi => bin8_getElem? b hi⟩⟩

end Sys2Proof.Machine

/-! # Family 70_reset_and_hazards: when the sequencer has a step (R44, R45, R207) -/

namespace Sys2Proof.Machine

/-- An odd position of an even stream has no step (log 6). -/
theorem step_of_odd_pos {s : State} (h : s.stream.length % 2 = 0) (hp : s.pos % 2 = 1) :
    step s = .refused .oddPosition := by
  simp only [step, fetch_of_odd_pos h hp]

/-- Past the last pair there is no step (log 4). -/
theorem step_at_end {s : State} (h : s.stream.length % 2 = 0) (hp : s.pos % 2 = 0)
    (hl : s.stream.length < s.pos + 2) : step s = .fault (.endOfStream s.pos) := by
  simp only [step, fetch_at_end h hp hl]

/-- A pair that is there always gives a next state, whether or not it decodes. -/
theorem exists_step_eq_next_iff_ready {s : State} : (∃ t, step s = .next t) ↔ s.Ready := by
  constructor
  · rintro ⟨t, ht⟩
    obtain ⟨b0, b1, hf, -⟩ := step_eq_next.mp ht
    exact (fetch_eq_next.mp hf).1
  · intro hs
    obtain ⟨b0, b1, hb⟩ := hs.pair
    exact ⟨_, step_of_fetch (fetch_eq_next.mpr ⟨hs, hb⟩)⟩

/-- Settles O30: a step goes on exactly when `fetch` hands over a pair, and passes on the reason of each
stop of `fetch`. -/
theorem stepStopsExactlyWhenNoPairIsThere : Obligations.StepStopsExactlyWhenNoPairIsThere :=
  fun _ => ⟨exists_step_eq_next_iff_ready, step_of_odd_stream, step_of_odd_pos, step_at_end⟩

end Sys2Proof.Machine
